-- ==== Sys2Proof/Word.lean ====
section
/-! DEFINITION. The two unsigned types of 00_scope.md R6 and R8: a byte and a 32-bit word, and nothing else. Every helper over
them (byte order, header fields, sign extension) stands in Decode.lean or under Machine/. -/

namespace Sys2Proof

/-- A byte: 8 bits, bit 0 the least significant (R6). -/
abbrev Byte := BitVec 8

/-- A `Word`: an unsigned 32-bit integer (R8), the width of every control register (R5, R11). -/
abbrev Word := BitVec 32

end Sys2Proof
end

