-- ==== Sys2Proof/Syntax.lean ====
section
/-! DEFINITION. The encoded objects of spec/opcode_table.json, one constructor per row.

The block decodes no instruction stream (30_encoding.md, opening words); the rows are encoded objects of seven places (R60). What it
means to run each is said with its meaning under Machine/ and in log entries 1 to 3. -/

namespace Sys2Proof

/-- One constructor per row of the opcode table, in the table's order. -/
inductive Instr where
  /-- `NOP`: command word 0 (R62, R142). -/
  | nop
  /-- `RLE`: command word 1 (R62, R143). -/
  | rle
  /-- `DCTQ`: command word 2 (R62, R144). -/
  | dctq
  /-- `CLEAR`: command word 3 (R62, R145). -/
  | clear
  /-- `RESERVED_CMD`: any command word from 4 up (R63, R146). -/
  | reservedCmd (op : Word)
  /-- `REPEAT_RECORD`: header with bit 7 set, `LM1` in bits 6:0, and one value byte (R69, R70, R95). -/
  | repeatRecord (lm1 : BitVec 7) (value : Byte)
  /-- `SEQUENCE_RECORD`: header with bit 7 clear, `LM1` in bits 6:0, and `LM1 + 1` value bytes (R69, R70, R96). -/
  | sequenceRecord (lm1 : BitVec 7) (values : List Byte)
  /-- `QWORD`: four lanes, lane x in bits `[8x, 8x+8)` (R72, R129). -/
  | qword (q0 q1 q2 q3 : Byte)
  /-- `XFORM_NONE`: tag 0 (R64). -/
  | xformNone
  /-- `XFORM_REVBITS`: tag 1 (R64). -/
  | xformRevbits
  /-- `XFORM_REVNIB`: tag 2 (R64). -/
  | xformRevnib
  /-- `XFORM_REVEND`: tag 3 (R64). -/
  | xformRevend
  /-- `XFORM_RESERVED`: any tag from 4 up (R64, R162). -/
  | xformReserved (tag : Word)
  /-- `ERR_NONE`: `ERRCODE` reads 0 (R66, R160). -/
  | errNone
  /-- `ERR_OUT_OF_RANGE`: `ERRCODE` reads 1 (R66, R161). -/
  | errOutOfRange
  /-- `ERR_UNSUPPORTED_CONFIGURATION`: `ERRCODE` reads 2 (R66, R162). -/
  | errUnsupportedConfiguration
  /-- `ERR_EMPTY_INPUT`: `ERRCODE` reads 3 (R66, R163). -/
  | errEmptyInput
  /-- `STATUS_IDLE_NOTHING_FINISHED`: `STATUS` reads 0x0 (R67). -/
  | statusIdleNothingFinished
  /-- `STATUS_BUSY`: `STATUS` reads 0x1 (R67). -/
  | statusBusy
  /-- `STATUS_DONE_OK`: `STATUS` reads 0x2 (R67). -/
  | statusDoneOk
  /-- `STATUS_DONE_ERROR`: `STATUS` reads 0x6 (R67). -/
  | statusDoneError
  /-- `BPP_1`: depth 1 (R65). -/
  | bpp1
  /-- `BPP_4`: depth 4 (R65). -/
  | bpp4
  /-- `BPP_8`: depth 8 (R65). -/
  | bpp8
deriving DecidableEq, Repr

end Sys2Proof
end

