-- ==== Sys2Proof/WellFormed.lean ====
section
/-! DEFINITION. Which terms of `Instr` are objects of the encodings: the range of a reserved word or tag (30_encoding.md R63, R64) and
the number of value bytes of a sequence record (R69, R70). -/

namespace Sys2Proof

/-- The term is an object of its row: a reserved command word or tag is 4 or more, a sequence record has `LM1 + 1` value bytes. -/
def Instr.wf : Instr → Bool
  | .reservedCmd op => decide (4 ≤ op.toNat)
  | .xformReserved tag => decide (4 ≤ tag.toNat)
  | .sequenceRecord lm1 values => values.length == lm1.toNat + 1
  | .nop => true
  | .rle => true
  | .dctq => true
  | .clear => true
  | .repeatRecord _ _ => true
  | .qword _ _ _ _ => true
  | .xformNone => true
  | .xformRevbits => true
  | .xformRevnib => true
  | .xformRevend => true
  | .errNone => true
  | .errOutOfRange => true
  | .errUnsupportedConfiguration => true
  | .errEmptyInput => true
  | .statusIdleNothingFinished => true
  | .statusBusy => true
  | .statusDoneOk => true
  | .statusDoneError => true
  | .bpp1 => true
  | .bpp4 => true
  | .bpp8 => true

end Sys2Proof
end

