-- ==== Sys2Proof/Decode.lean ====
section
/-! DEFINITION. The decoder, total on any bytes and rejecting by name, and after it the encoder.

The same 32-bit word stands in several tables of 30_encoding.md (0 is `NOP`, `NONE`, no error and an idle `STATUS`): what tells them
apart is where the word lives (R60), so both directions are by `Place`. Byte order is little-endian (20_memory.md R42). -/

namespace Sys2Proof

/-- Where an encoded object lives (30_encoding.md R60). -/
inductive Place where
  /-- The value of a write to `CMD` (R61). -/
  | cmd
  /-- The value in `XFORM` (R64). -/
  | xform
  /-- The value in `BPP` (R65). -/
  | bpp
  /-- The value read from `ERRCODE` (R66). -/
  | errcode
  /-- The value read from `STATUS` (R67). -/
  | status
  /-- A header position of the stream, and the value bytes after it (R68 to R70). -/
  | hdr
  /-- A word of `OBUF` after `DCTQ` (R72). -/
  | qword
deriving DecidableEq, Repr

/-- Why bytes at a place are no object of it. -/
inductive DecodeError where
  /-- Fewer bytes than the object has (R70, R71). -/
  | truncated
  /-- A depth other than 1, 4 and 8 (R65). -/
  | illegalDepth (w : Word)
  /-- A value `ERRCODE` cannot read (R66). -/
  | noErrorCode (w : Word)
  /-- A value `STATUS` cannot read (R67). -/
  | noStatusValue (w : Word)
deriving DecidableEq, Repr

/-- The place of each row (R60). -/
def Instr.place : Instr → Place
  | .nop => .cmd
  | .rle => .cmd
  | .dctq => .cmd
  | .clear => .cmd
  | .reservedCmd _ => .cmd
  | .repeatRecord _ _ => .hdr
  | .sequenceRecord _ _ => .hdr
  | .qword _ _ _ _ => .qword
  | .xformNone => .xform
  | .xformRevbits => .xform
  | .xformRevnib => .xform
  | .xformRevend => .xform
  | .xformReserved _ => .xform
  | .errNone => .errcode
  | .errOutOfRange => .errcode
  | .errUnsupportedConfiguration => .errcode
  | .errEmptyInput => .errcode
  | .statusIdleNothingFinished => .status
  | .statusBusy => .status
  | .statusDoneOk => .status
  | .statusDoneError => .status
  | .bpp1 => .bpp
  | .bpp4 => .bpp
  | .bpp8 => .bpp

/-- Byte lane `x` of a word: bits `[8x, 8x+8)` (R42, R72). -/
def laneByte (w : Word) (x : Nat) : Byte := w.extractLsb' (8 * x) 8

/-- The four bytes of a word, lowest address first (R42). -/
def leBytes (w : Word) : List Byte := [laneByte w 0, laneByte w 1, laneByte w 2, laneByte w 3]

/-- The word of four bytes, `b0` at the lowest address and in bits 7:0 (R42). -/
def leWord (b0 b1 b2 b3 : Byte) : Word := b3 ++ b2 ++ b1 ++ b0

/-- The next word of a byte list. -/
def takeWord : List Byte → Except DecodeError (Word × List Byte)
  | b0 :: b1 :: b2 :: b3 :: rest => .ok (leWord b0 b1 b2 b3, rest)
  | _ => .error .truncated

/-- The command opcode map, the whole word matched (R62). -/
def decodeCmd (w : Word) : Instr :=
  if w = 0 then .nop
  else if w = 1 then .rle
  else if w = 2 then .dctq
  else if w = 3 then .clear
  else .reservedCmd w

/-- The transform tags, all 32 bits compared (R64). -/
def decodeXform (w : Word) : Instr :=
  if w = 0 then .xformNone
  else if w = 1 then .xformRevbits
  else if w = 2 then .xformRevnib
  else if w = 3 then .xformRevend
  else .xformReserved w

/-- The legal depths, all 32 bits compared (R65). -/
def decodeBpp (w : Word) : Except DecodeError Instr :=
  if w = 1 then .ok .bpp1
  else if w = 4 then .ok .bpp4
  else if w = 8 then .ok .bpp8
  else .error (.illegalDepth w)

/-- The error codes (R66). -/
def decodeErrcode (w : Word) : Except DecodeError Instr :=
  if w = 0 then .ok .errNone
  else if w = 1 then .ok .errOutOfRange
  else if w = 2 then .ok .errUnsupportedConfiguration
  else if w = 3 then .ok .errEmptyInput
  else .error (.noErrorCode w)

/-- The values a host can read from `STATUS` (R67). -/
def decodeStatus (w : Word) : Except DecodeError Instr :=
  if w = 0 then .ok .statusIdleNothingFinished
  else if w = 1 then .ok .statusBusy
  else if w = 2 then .ok .statusDoneOk
  else if w = 6 then .ok .statusDoneError
  else .error (.noStatusValue w)

/-- The four lanes of a packed word (R72). -/
def decodeQword (w : Word) : Instr := .qword (laneByte w 0) (laneByte w 1) (laneByte w 2) (laneByte w 3)

/-- Bit 7 of a header: 1 = repeat record (R69). -/
def hdrIsRepeat (h : Byte) : Bool := h.getLsbD 7

/-- Bits 6:0 of a header, the run length minus one (R69). -/
def hdrLm1 (h : Byte) : BitVec 7 := h.extractLsb' 0 7

/-- The next record of the stream: the length is told from the header alone (R70); the only malformed stream is one that ends
inside a record (R71). -/
def decodeHdr : List Byte → Except DecodeError (Instr × List Byte)
  | [] => .error .truncated
  | h :: rest =>
    if hdrIsRepeat h then
      match rest with
      | [] => .error .truncated
      | v :: rest' => .ok (.repeatRecord (hdrLm1 h) v, rest')
    else
      let n := (hdrLm1 h).toNat + 1
      if rest.length < n then .error .truncated
      else .ok (.sequenceRecord (hdrLm1 h) (rest.take n), rest.drop n)

/-- A word-shaped object at its place. -/
def decodeWord : Place → Word → Except DecodeError Instr
  | .cmd, w => .ok (decodeCmd w)
  | .xform, w => .ok (decodeXform w)
  | .bpp, w => decodeBpp w
  | .errcode, w => decodeErrcode w
  | .status, w => decodeStatus w
  | .qword, w => .ok (decodeQword w)
  | .hdr, _ => .error .truncated

/-- The decoder: the object the bytes at a place begin with, and the bytes after it. -/
def decode (p : Place) (bytes : List Byte) : Except DecodeError (Instr × List Byte) :=
  if p = .hdr then decodeHdr bytes
  else
    match takeWord bytes with
    | .error e => .error e
    | .ok (w, rest) =>
      match decodeWord p w with
      | .error e => .error e
      | .ok i => .ok (i, rest)

/-- The header byte of a repeat record: `0x80 | (chunk_len - 1)` (R69). -/
def repeatHeader (lm1 : BitVec 7) : Byte := (1#1 : BitVec 1) ++ lm1

/-- The header byte of a sequence record: `chunk_len - 1` (R69). -/
def sequenceHeader (lm1 : BitVec 7) : Byte := (0#1 : BitVec 1) ++ lm1

/-- The 32-bit value of a word-shaped object (R62, R64 to R67, R72); a record has none and answers 0 (filler, log
entry 19). -/
def encodeWord : Instr → Word
  | .nop => 0
  | .rle => 1
  | .dctq => 2
  | .clear => 3
  | .reservedCmd op => op
  | .repeatRecord _ _ => 0
  | .sequenceRecord _ _ => 0
  | .qword q0 q1 q2 q3 => leWord q0 q1 q2 q3
  | .xformNone => 0
  | .xformRevbits => 1
  | .xformRevnib => 2
  | .xformRevend => 3
  | .xformReserved tag => tag
  | .errNone => 0
  | .errOutOfRange => 1
  | .errUnsupportedConfiguration => 2
  | .errEmptyInput => 3
  | .statusIdleNothingFinished => 0
  | .statusBusy => 1
  | .statusDoneOk => 2
  | .statusDoneError => 6
  | .bpp1 => 1
  | .bpp4 => 4
  | .bpp8 => 8

/-- The encoder: the bytes of an object at its place, lowest address first. -/
def encode : Instr → List Byte
  | .repeatRecord lm1 value => [repeatHeader lm1, value]
  | .sequenceRecord lm1 values => sequenceHeader lm1 :: values
  | .nop => leBytes (encodeWord .nop)
  | .rle => leBytes (encodeWord .rle)
  | .dctq => leBytes (encodeWord .dctq)
  | .clear => leBytes (encodeWord .clear)
  | .reservedCmd op => leBytes (encodeWord (.reservedCmd op))
  | .qword q0 q1 q2 q3 => leBytes (encodeWord (.qword q0 q1 q2 q3))
  | .xformNone => leBytes (encodeWord .xformNone)
  | .xformRevbits => leBytes (encodeWord .xformRevbits)
  | .xformRevnib => leBytes (encodeWord .xformRevnib)
  | .xformRevend => leBytes (encodeWord .xformRevend)
  | .xformReserved tag => leBytes (encodeWord (.xformReserved tag))
  | .errNone => leBytes (encodeWord .errNone)
  | .errOutOfRange => leBytes (encodeWord .errOutOfRange)
  | .errUnsupportedConfiguration => leBytes (encodeWord .errUnsupportedConfiguration)
  | .errEmptyInput => leBytes (encodeWord .errEmptyInput)
  | .statusIdleNothingFinished => leBytes (encodeWord .statusIdleNothingFinished)
  | .statusBusy => leBytes (encodeWord .statusBusy)
  | .statusDoneOk => leBytes (encodeWord .statusDoneOk)
  | .statusDoneError => leBytes (encodeWord .statusDoneError)
  | .bpp1 => leBytes (encodeWord .bpp1)
  | .bpp4 => leBytes (encodeWord .bpp4)
  | .bpp8 => leBytes (encodeWord .bpp8)

/-- The bytes of a table row's number, lowest first: `nbits / 8` bytes of `w` and zeros after them, up to the longest object (a sequence
record, 129 bytes). -/
def tableBytes (nbits w : Nat) : List Byte :=
  (List.range (nbits / 8)).map (fun k => BitVec.ofNat 8 (w / 256 ^ k)) ++ List.replicate (129 - nbits / 8) 0

/-- The place a table row of this many bits is read at by the decoder's table entry: a header byte (8 bits) or a command word (32 bits).
The other 32-bit rows share their words with the command words and are told apart only by their place (R60; log entry 4). -/
def tablePlace (nbits : Nat) : Option Place :=
  if nbits = 8 then some .hdr else if nbits = 32 then some .cmd else none

/-- The object the decoder reads from a row's number. -/
def decodeTableWord (nbits w : Nat) : Option Instr :=
  match tablePlace nbits with
  | none => none
  | some p =>
    match decode p (tableBytes nbits w) with
    | .ok (i, _) => some i
    | .error _ => none

end Sys2Proof
end

