-- ==== Sys2Proof/Config.lean ====
section
/-! DEFINITION. What an implementation fixes (00_scope.md R5) and the free values.

The three parameters the spec leaves OPEN are a record, `Params`, that a state carries unchanged, so that every statement about
every state is a statement about every setting of them (log entry 5). The free values are constants with no body: nothing can be
proved of what they are. Each is applied to the counter `State.freeIdx`, so that two uses need not agree. -/

namespace Sys2Proof

/-- The parameters of R5 that the spec leaves to the implementation: the capacity of the input buffer, the quantization matrix in
row-major order (`QMATRIX[y][x]` is entry `4y + x`, R20), and whether an `RLE` command on zero bytes is an error (R163). -/
structure Params where
  /-- `IBUF_SIZE` in bytes. -/
  ibufSize : Nat
  /-- `QMATRIX`, row by row. -/
  qmatrix : Vector Word 16
  /-- `EMPTY_INPUT_FAULTS`. -/
  emptyInputFaults : Bool
deriving DecidableEq, Repr

namespace Config

/-- The byte an unspecified read of a buffer byte returns (R183, R185; log entries 6 and 8), and a byte of an unspecified output. -/
opaque freeByte : Nat → Byte

/-- The word an unspecified read of `OUTLEN` returns (R183; log entry 8). -/
opaque freeWord : Nat → Word

/-- The unspecified length of an `RLE` output whose input holds an unwritten byte, before its bound is applied (R185; log entry 7). -/
opaque freeCount : Nat → Nat

/-- How many host events come between a launch and its completion step (R141, R187; log entry 9). -/
opaque busyWindow : Nat → Nat

/-- The defaults of R5, with the default matrix of R125 (from general knowledge, as R125 says itself; log entry 5). -/
def defaults : Params where
  ibufSize := 4096
  qmatrix := #v[16, 11, 10, 16, 12, 12, 14, 19, 14, 13, 16, 24, 14, 17, 22, 29]
  emptyInputFaults := false

/-- What R5 and R74 require of the parameters: `IBUF_SIZE` a multiple of 4 from 64 to 65536, every weight at least 1. -/
def wellFormed (p : Params) : Bool :=
  p.ibufSize % 4 == 0 && decide (64 ≤ p.ibufSize) && decide (p.ibufSize ≤ 65536) && p.qmatrix.toList.all (fun q => q != 0)

end Config
end Sys2Proof
end

