-- ==== Sys2Proof/Machine/Access.lean ====
section
/-! DEFINITION. What the outside does to the block: port accesses (20_memory.md R43, 30_encoding.md R76), and the events of a host
program. -/

namespace Sys2Proof.Machine

/-- The width of a port access. 16 bits is not admitted anywhere (R43); it is here so that such an access can be refused. -/
inductive Width where
  /-- 8 bits: `R1`, `W1`. -/
  | byte
  /-- 16 bits: never admitted. -/
  | half
  /-- 32 bits: `R4`, `W4`. -/
  | word
deriving DecidableEq, Repr

/-- A transaction triple (R76): kind and width, 18-bit offset (R40), and for writes the data (a byte write's data is bits 7:0). -/
inductive Access where
  /-- `R1`, `R4`. -/
  | read (w : Width) (off : BitVec 18)
  /-- `W1`, `W4`. -/
  | write (w : Width) (off : BitVec 18) (v : Word)
deriving DecidableEq, Repr

/-- The named registers of the register map (10_state.md R11). -/
inductive Reg where
  /-- Offset 0x00000. -/
  | cmd
  /-- Offset 0x00004. -/
  | status
  /-- Offset 0x00008. -/
  | errcode
  /-- Offset 0x0000C. -/
  | bpp
  /-- Offset 0x00010. -/
  | minseq
  /-- Offset 0x00014. -/
  | xform
  /-- Offset 0x00018. -/
  | len
  /-- Offset 0x0001C. -/
  | outlen
  /-- Offset 0x00040 + 4i. -/
  | qm (i : Fin 16)
deriving DecidableEq, Repr

/-- What lies at a port offset (20_memory.md R41). -/
inductive Region where
  /-- A control register or a `QM` entry. -/
  | reg (r : Reg)
  /-- Reads return 0, writes are ignored. -/
  | reserved
  /-- Byte `i` of `IBUF`. -/
  | ibuf (i : Nat)
  /-- Byte `i` of `OBUF`. -/
  | obuf (i : Nat)
deriving DecidableEq, Repr

/-- One event of the outside: a port access, the reset input, a pseudo-line that is no fixed list of accesses (R76), or a step of the
consumer (41_rle.md R101, 43_quantizer.md R130). -/
inductive Event where
  /-- One port access. -/
  | access (a : Access)
  /-- The reset input `rst` is asserted (70_reset_and_hazards.md R180). -/
  | rst
  /-- `POLL`: repeat `RD STATUS` until the value read has bit 1 set (R76). -/
  | poll
  /-- `DUMP n`, of which `k` reads are done: the bytes read are appended to the emitted array (R76, R186). -/
  | dump (k n : Nat)
  /-- The consumer decodes the next record of the emitted array (R101). -/
  | record
  /-- The host reads packed word `y` of `OBUF` and the consumer unpacks it (R129, R130). -/
  | row (y : BitVec 2)
deriving DecidableEq, Repr

end Sys2Proof.Machine
end

