-- ==== Sys2Proof/Machine/State.lean ====
section
/-! DEFINITION. The machine's state as plain data, why a step can stop, and the state after reset (10_state.md R10, R27). -/

namespace Sys2Proof.Machine

/-- Whether a command is running (10_state.md R23); visible as `STATUS.BUSY` (R13). -/
inductive Phase where
  /-- No command is running. -/
  | idle
  /-- A command has been launched and has not finished. -/
  | busy
deriving DecidableEq, Repr

/-- The error kinds of 60_exceptions.md R160. -/
inductive ErrKind where
  /-- `OutOfRange`, code 1 (R161). -/
  | outOfRange
  /-- `UnsupportedConfiguration`, code 2 (R162). -/
  | unsupportedConfiguration
  /-- `EmptyInput`, code 3 (R163). -/
  | emptyInput
deriving DecidableEq, Repr

/-- A memory: the bytes of `IBUF` and `OBUF` that hold a stored value, keyed by port offset, the offsets strictly rising
(`Memory.wf`). A byte that is not listed holds no value anyone may rely on: it has not been written since reset (R185), and reading it
answers a free value. So a listed entry is never what an unlisted one reads as. -/
abbrev Memory := List Host.Cell

/-- The variables of the reference consumer, which is no part of the block (41_rle.md R101, 43_quantizer.md R130; log entry 3). -/
structure Consumer where
  /-- The bytes the host has emitted, in emission order (R186): the `stream` of R101. -/
  array : List Byte
  /-- The `p` of R101. -/
  pos : Nat
  /-- The `out` of R101. -/
  out : List Byte
  /-- R101 returned failure. -/
  failed : Bool
  /-- The levels unpacked so far, row after row (R130). -/
  levels : List Int
deriving DecidableEq, Repr

/-- Everything the spec gives the block (R10), and below it the model's own fields. `CMD` stores nothing (R12). -/
structure State where
  /-- The parameters (R5); `cfg.qmatrix` is the table `QM` (R20). No step changes them. -/
  cfg : Params
  /-- `phase`, which is `STATUS.BUSY` (R13, R23). -/
  phase : Phase
  /-- `cur_op`, the command word latched at launch (R23). -/
  curOp : Word
  /-- `STATUS.DONE` (R13). -/
  done : Bool
  /-- `STATUS.ERR` (R13). -/
  err : Bool
  /-- `ERRCODE[1:0]`; bits 31:2 read 0 (R14). -/
  errcode : BitVec 2
  /-- `BPP` (R15). -/
  bpp : Word
  /-- `MINSEQ` (R16). -/
  minseq : Word
  /-- `XFORM` (R17). -/
  xform : Word
  /-- `LEN` (R18). -/
  len : Word
  /-- `OUTLEN` (R19). -/
  outlen : Word
  /-- `IBUF` and `OBUF`, and the ghost bits of `IBUF` (R21, R22, R26). -/
  mem : Memory
  /-- The model's own: host events still to come before the completion step (R141, R187; log entry 9). -/
  window : Nat
  /-- The model's own: the counter the free values are applied to (log entry 8). -/
  freeIdx : Nat
  /-- The model's own: what the last host read returned (R147, R149; log entry 2). -/
  readData : Word
  /-- The model's own: the value read is the one the row of the table matches (log entry 2). -/
  readMatch : Bool
  /-- The model's own: what the outside has still to do, first event first (R46; log entry 15). -/
  program : List Event
  /-- The model's own: the reference consumer (log entry 3). -/
  consumer : Consumer
deriving DecidableEq, Repr

/-- Why the machine stops with a fault. No rule of the spec stops the block (60_exceptions.md R160: there is no arithmetic exception, no
bus error on an admitted access, no alignment fault). -/
inductive Fault where
  /-- Raised by `step` when the parameters break R5 or R74: such a machine is not this hardware. Safe: the model stops where the
  spec says nothing. -/
  | badParameters
deriving DecidableEq, Repr

/-- Why the model refuses. -/
inductive Refusal where
  /-- Raised by `exec` for a row that has no meaning yet. Safe. No arm uses it now. -/
  | notModelled (mnemonic : String)
  /-- Raised by a host access that 20_memory.md R43 does not admit (a 16-bit access, a 32-bit access at an offset that is no multiple of
  4, an 8-bit access below 0x10000), and by a `DUMP` that runs past the port's last offset: "this spec gives it no meaning, and a model
  refuses it". Safe. -/
  | notAdmitted
deriving DecidableEq, Repr

/-- The consumer before anything has been emitted (log entry 11). -/
def Consumer.fresh : Consumer where
  array := []
  pos := 0
  out := []
  failed := false
  levels := []

/-- The block right after reset under given parameters (R27, R180), with nothing left for the host to do. `cur_op` and the contents of the
buffers are unspecified there: log entries 10 and 6; the model's own fields: log entry 11. -/
def State.resetWith (p : Params) : State where
  cfg := p
  phase := .idle
  curOp := 0
  done := false
  err := false
  errcode := 0
  bpp := 0
  minseq := 0
  xform := 0
  len := 0
  outlen := 0
  mem := []
  window := 0
  freeIdx := 0
  readData := 0
  readMatch := false
  program := []
  consumer := Consumer.fresh

/-- The machine right after reset, with the default parameters (R27, R5, R125). -/
def State.reset : State := State.resetWith Config.defaults

end Sys2Proof.Machine
end

