-- ==== Sys2Proof/Machine/Flags.lean ====
section
/-! DEFINITION. `STATUS` and `ERRCODE`: how they read, and every way they change (10_state.md R13, R14, 44_commands.md R140, R141,
60_exceptions.md R165). No arithmetic of the block sets a flag (R24). -/

namespace Sys2Proof.Machine

/-- The code of an error kind (60_exceptions.md R160, 30_encoding.md R66). -/
def errCode : ErrKind → BitVec 2
  | .outOfRange => 1
  | .unsupportedConfiguration => 2
  | .emptyInput => 3

/-- `STATUS.BUSY` (R13, R23). -/
def State.isBusy (s : State) : Bool := s.phase == .busy

/-- The value `STATUS` reads: bit 0 `BUSY`, bit 1 `DONE`, bit 2 `ERR`, bits 31:3 zero (R67). -/
def statusWord (s : State) : Word :=
  (0#29 : BitVec 29) ++ BitVec.ofBool s.err ++ BitVec.ofBool s.done ++ BitVec.ofBool s.isBusy

/-- The value `ERRCODE` reads: the code in bits 1:0, bits 31:2 zero (R14). -/
def errcodeWord (s : State) : Word := s.errcode.setWidth 32

/-- `STATUS.DONE <- 0; STATUS.ERR <- 0; ERRCODE <- 0; OUTLEN <- 0` (R140, R145). -/
def clearReport (s : State) : State := { s with done := false, err := false, errcode := 0, outlen := 0 }

/-- `STATUS.DONE <- 1; STATUS.BUSY <- 0; phase <- IDLE` (R141). -/
def finish (s : State) : State := { s with done := true, phase := .idle }

/-- `ERRCODE <- code; STATUS.ERR <- 1` (R141, R165), the part of an error's entry that reports it. -/
def reportError (e : ErrKind) (s : State) : State := { s with errcode := errCode e, err := true }

end Sys2Proof.Machine
end

