-- ==== Sys2Proof/Machine/Ops.lean ====
section
/-! DEFINITION. The shared operations: memory, registers, launching a command, taking an error, reset. -/

namespace Sys2Proof.Machine

/-! ### Memory -/

/-- The stored byte at an offset, if there is one. -/
def Memory.read : Memory → Nat → Option Byte
  | [], _ => none
  | c :: m, a => if a = c.1 then some c.2 else Memory.read m a

/-- Store one byte, keeping the offsets strictly rising. -/
def Memory.write : Memory → Nat → Byte → Memory
  | [], a, v => [(a, v)]
  | c :: m, a, v =>
    if a < c.1 then (a, v) :: c :: m
    else if a = c.1 then (a, v) :: m
    else c :: Memory.write m a v

/-- Store bytes at consecutive offsets, the first at `a`. -/
def Memory.writeBytes (m : Memory) (a : Nat) : List Byte → Memory
  | [] => m
  | b :: bs => Memory.writeBytes (m.write a b) (a + 1) bs

/-- The `n` stored bytes from offset `a`, or nothing if one of them holds no stored value. -/
def Memory.readBytes (m : Memory) (a : Nat) : Nat → Option (List Byte)
  | 0 => some []
  | n + 1 =>
    match m.read a, Memory.readBytes m (a + 1) n with
    | some b, some bs => some (b :: bs)
    | _, _ => none

/-- The canonical form: strictly rising offsets. -/
def Memory.wf : Memory → Bool
  | [] => true
  | c :: m => m.all (fun d => decide (c.1 < d.1)) && Memory.wf m

/-! ### The address map (20_memory.md R41) -/

/-- The port offset of `IBUF[0]`. -/
def ibufBase : Nat := 0x10000

/-- The port offset of `OBUF[0]`. -/
def obufBase : Nat := 0x20000

/-- `OBUF_SIZE` (00_scope.md R5). -/
def obufSize (p : Params) : Nat := 2 * p.ibufSize

/-- The offset of a register (10_state.md R11). -/
def regOffset : Reg → BitVec 18
  | .cmd => 0x00000
  | .status => 0x00004
  | .errcode => 0x00008
  | .bpp => 0x0000C
  | .minseq => 0x00010
  | .xform => 0x00014
  | .len => 0x00018
  | .outlen => 0x0001C
  | .qm i => BitVec.ofNat 18 (0x40 + 4 * i.val)

/-- The register at a word index below 32, the offset divided by 4 (R11); indexes 8 to 15 are reserved. -/
def regAtIndex (k : Nat) : Region :=
  match k with
  | 0 => .reg .cmd
  | 1 => .reg .status
  | 2 => .reg .errcode
  | 3 => .reg .bpp
  | 4 => .reg .minseq
  | 5 => .reg .xform
  | 6 => .reg .len
  | 7 => .reg .outlen
  | _ => if h : 16 ≤ k ∧ k < 32 then .reg (.qm ⟨k - 16, by omega⟩) else .reserved

/-- What lies at an offset (R41, R11). -/
def regionAt (p : Params) (off : Nat) : Region :=
  if off < 0x80 then regAtIndex (off / 4)
  else if off < ibufBase then .reserved
  else if off < ibufBase + p.ibufSize then .ibuf (off - ibufBase)
  else if off < obufBase then .reserved
  else if off < obufBase + obufSize p then .obuf (off - obufBase)
  else .reserved

/-- Which accesses R43 admits: 32 bits at a multiple of 4; 8 bits from 0x10000 up (the buffer windows, their reserved tails
included: log entry 13). -/
def admitted (w : Width) (off : Nat) : Bool :=
  match w with
  | .byte => decide (ibufBase ≤ off)
  | .half => false
  | .word => off % 4 == 0

/-! ### Updates of single fields -/

/-- Advance the counter of the free values. -/
def advance (n : Nat) (s : State) : State := { s with freeIdx := s.freeIdx + n }

/-- The data a host read returned. -/
def setRead (v : Word) (s : State) : State := { s with readData := v }

/-- Whether the value read is the one looked for. -/
def setMatch (b : Bool) (s : State) : State := { s with readMatch := b }

/-- Replace the memory. -/
def setMem (m : Memory) (s : State) : State := { s with mem := m }

/-- `OUTLEN <- v`. -/
def setOutlen (v : Word) (s : State) : State := { s with outlen := v }

/-- `BPP <- v`. -/
def setBpp (v : Word) (s : State) : State := { s with bpp := v }

/-- `MINSEQ <- v`. -/
def setMinseq (v : Word) (s : State) : State := { s with minseq := v }

/-- `XFORM <- v`. -/
def setXform (v : Word) (s : State) : State := { s with xform := v }

/-- `LEN <- v`. -/
def setLen (v : Word) (s : State) : State := { s with len := v }

/-- Replace the consumer's variables. -/
def setConsumer (c : Consumer) (s : State) : State := { s with consumer := c }

/-- Replace what the host has still to do. -/
def setProgram (p : List Event) (s : State) : State := { s with program := p }

/-- One host event has come: one fewer before the completion step (log entry 9). -/
def tick (s : State) : State := { s with window := s.window - 1 }

/-! ### Register accesses (44_commands.md R147, R148) -/

/-- The value a 32-bit read of a register returns (R147): `OUTLEN` is unspecified while `BUSY`, everything else is always defined. -/
def regValue (r : Reg) (s : State) : Word :=
  match r with
  | .cmd => 0
  | .status => statusWord s
  | .errcode => errcodeWord s
  | .bpp => s.bpp
  | .minseq => s.minseq
  | .xform => s.xform
  | .len => s.len
  | .outlen => if s.isBusy then Config.freeWord s.freeIdx else s.outlen
  | .qm i => s.cfg.qmatrix[i]

/-- The host reads a register: the value is returned and the architectural state is unchanged (R44, R147). -/
def readReg (r : Reg) (s : State) : State := advance 1 (setRead (regValue r s) s)

/-- `cur_op <- w; STATUS.BUSY <- 1; phase <- BUSY` (R140); the length of the `BUSY` window is drawn here (R187, log entry 9). -/
def latch (w : Word) (s : State) : State :=
  { s with curOp := w, phase := .busy, window := Config.busyWindow s.freeIdx, freeIdx := s.freeIdx + 1 }

/-- `launch(w)` of R140, in its own order. -/
def launch (w : Word) (s : State) : State :=
  if s.isBusy then s
  else if w = 0 then s
  else if w = 3 then clearReport s
  else latch w (clearReport s)

/-- The host writes a register (R148): `CMD` launches; `BPP`, `MINSEQ`, `XFORM`, `LEN` take all 32 bits while `IDLE` and drop the write
while `BUSY`; every other register ignores it. -/
def writeReg (r : Reg) (v : Word) (s : State) : State :=
  match r with
  | .cmd => launch v s
  | .bpp => if s.isBusy then s else setBpp v s
  | .minseq => if s.isBusy then s else setMinseq v s
  | .xform => if s.isBusy then s else setXform v s
  | .len => if s.isBusy then s else setLen v s
  | .status => s
  | .errcode => s
  | .outlen => s
  | .qm _ => s

/-! ### Taking an error (60_exceptions.md R165) -/

/-- `raise E`: the code and `ERR` are set, the command is over. `OUTLEN`, `OBUF`, `IBUF` and the configuration are as they were. There is
nothing to return from (R166): the report stays until the next launch, `CLEAR` or reset, all of which clear it. -/
def raiseError (e : ErrKind) (s : State) : State := finish (reportError e s)

/-! ### Reset (70_reset_and_hazards.md R180) -/

/-- The reset input is asserted: the block goes to the values of 10_state.md R27; a running command is abandoned, all bytes of the buffers
are unspecified again, the parameters stay. What is outside the block (the host's program, what it last read, the emitted array, the
consumer) and the counter of the free values are not the block's and stay. -/
def applyReset (s : State) : State :=
  { State.resetWith s.cfg with
    freeIdx := s.freeIdx, readData := s.readData, readMatch := s.readMatch, program := s.program, consumer := s.consumer }

end Sys2Proof.Machine
end

