-- ==== Sys2Proof/Machine/Operands.lean ====
section
/-! DEFINITION. The operands of the commands (44_commands.md R143, R144, R151) and the accesses to the buffers (R149): everything a
command or the host reads from or writes to `IBUF` and `OBUF`. -/

namespace Sys2Proof.Machine

/-! ### Operands of the commands -/

/-- `IBUF[0 : n]`, or nothing if one of the bytes was not written since reset (R185). -/
def inputBytes (n : Nat) (s : State) : Option (List Byte) := s.mem.readBytes ibufBase n

/-- The input sequence of `RLE`: `IBUF[0 : LEN]` (R143). -/
def rleInput (s : State) : Option (List Byte) := inputBytes s.len.toNat s

/-- The pixel block of `DCTQ`: `IBUF[0 : 64]`, `P[r][c] = IBUF[8r + c]` (R144, 42_dct.md R117). -/
def dctqInput (s : State) : Option (List Byte) := inputBytes 64 s

/-- `n` free bytes, from counter value `i` on. -/
def freeBytes (i : Nat) : Nat → List Byte
  | 0 => []
  | n + 1 => Config.freeByte i :: freeBytes (i + 1) n

/-- `for k: OBUF[k] <- out[k]; OUTLEN <- len(out)` (R143, R144): bytes at index `len(out)` and above are unchanged. -/
def writeOutput (out : List Byte) (s : State) : State :=
  setOutlen (BitVec.ofNat 32 out.length) (setMem (s.mem.writeBytes obufBase out) s)

/-- An unspecified output of `n` bytes (R185): the bytes are free. -/
def writeFreeOutput (n : Nat) (s : State) : State := advance n (writeOutput (freeBytes s.freeIdx n) s)

/-- The unspecified length of an `RLE` output whose input holds an unwritten byte: at most `2 * LEN` (R185; log entry 7). -/
def freeOutputLength (s : State) : Nat := Config.freeCount s.freeIdx % (2 * s.len.toNat + 1)

/-! ### Host accesses to the buffers (R149) -/

/-- The byte a host read of a buffer byte returns, with `i` the counter value for a free one: the stored byte if `phase = IDLE` and one is
stored, otherwise unspecified. -/
def bufferByte (s : State) (a i : Nat) : Byte :=
  if s.isBusy then Config.freeByte i
  else
    match s.mem.read a with
    | some b => b
    | none => Config.freeByte i

/-- An 8-bit read of a buffer byte, zero-extended. -/
def readBufferByte (a : Nat) (s : State) : State :=
  advance 1 (setRead ((bufferByte s a s.freeIdx).setWidth 32) s)

/-- The word of the four buffer bytes from `a`, little-endian (20_memory.md R42). -/
def bufferWord (s : State) (a : Nat) : Word :=
  leWord (bufferByte s a s.freeIdx) (bufferByte s (a + 1) (s.freeIdx + 1)) (bufferByte s (a + 2) (s.freeIdx + 2))
    (bufferByte s (a + 3) (s.freeIdx + 3))

/-- A 32-bit read of a buffer. -/
def readBufferWord (a : Nat) (s : State) : State := advance 4 (setRead (bufferWord s a) s)

/-- A write to `IBUF`: stored, with the ghost bits set, while `IDLE`; dropped while `BUSY`. -/
def writeInput (a : Nat) (bs : List Byte) (s : State) : State :=
  if s.isBusy then s else setMem (s.mem.writeBytes a bs) s

end Sys2Proof.Machine
end

