-- ==== Sys2Proof/Machine/Port.lean ====
section
/-! DEFINITION. A host access at the port, whatever it touches (20_memory.md R41 to R44, 44_commands.md R147 to R149). -/

namespace Sys2Proof.Machine

/-- A read that R43 admits. -/
def readAt (w : Width) (off : Nat) (s : State) : State :=
  match regionAt s.cfg off with
  | .reg r => readReg r s
  | .reserved => setRead 0 s
  | .ibuf _ => if w = .byte then readBufferByte off s else readBufferWord off s
  | .obuf _ => if w = .byte then readBufferByte off s else readBufferWord off s

/-- A write that R43 admits: `OBUF` and reserved offsets ignore it. -/
def writeAt (w : Width) (off : Nat) (v : Word) (s : State) : State :=
  match regionAt s.cfg off with
  | .reg r => writeReg r v s
  | .reserved => s
  | .ibuf _ => if w = .byte then writeInput off [laneByte v 0] s else writeInput off (leBytes v) s
  | .obuf _ => s

/-- One host access; one that R43 does not admit is refused. -/
def access (a : Access) (s : State) : Host.Outcome State Fault Refusal :=
  match a with
  | .read w off => if admitted w off.toNat then .next (readAt w off.toNat s) else .refused .notAdmitted
  | .write w off v => if admitted w off.toNat then .next (writeAt w off.toNat v s) else .refused .notAdmitted

/-- One read of `DUMP` (30_encoding.md R76): `RDB OBUF[k]`, its byte appended to the emitted array (70_reset_and_hazards.md R186). -/
def dumpByte (k : Nat) (s : State) : Host.Outcome State Fault Refusal :=
  if obufBase + k < 2 ^ 18 then
    let t := readAt .byte (obufBase + k) s
    .next (setConsumer { t.consumer with array := t.consumer.array ++ [laneByte t.readData 0] } t)
  else .refused .notAdmitted

end Sys2Proof.Machine
end

