-- ==== Sys2Proof/Machine/Dct.lean ====
section
/-! DEFINITION. The forward DCT of the block, exactly (42_dct.md R117 to R121).

`8 * coef(P, u, v)` is the integer combination `A_0 k_0 + ... + A_7 k_7` of the cosines `k_j = cos(j pi / 16)` that `decomp` computes as
R121 writes it. To round it, the model compares it with integers exactly. It writes twice the combination in the tower of square roots
`sqrt 2`, `sqrt (2 + sqrt 2)`, `sqrt (2 + sqrt (2 + sqrt 2))`, which are `2 cos` of `pi/4`, `pi/8` and `pi/16`, and finds signs by integer
arithmetic (log entry 14). R119 leaves free how the exact result is reached. -/

namespace Sys2Proof.Machine

/-! ### Samples and the decomposition of R121 -/

/-- The centred sample `S[r][c] = P[r][c] - 128` of a block of 64 bytes in row-major order (R117); a byte missing from a
shorter list counts as 0 (filler, log entry 19). -/
def sample (P : List Byte) (r c : Nat) : Int := ((P[8 * r + c]?).getD 0).toNat - 128

/-- The coefficients `A[0..7]` of R121. -/
structure CosSum where
  /-- `A[0]`, of `cos 0 = 1`. -/
  a0 : Int
  /-- `A[1]`. -/
  a1 : Int
  /-- `A[2]`. -/
  a2 : Int
  /-- `A[3]`. -/
  a3 : Int
  /-- `A[4]`. -/
  a4 : Int
  /-- `A[5]`. -/
  a5 : Int
  /-- `A[6]`. -/
  a6 : Int
  /-- `A[7]`. -/
  a7 : Int
deriving DecidableEq, Repr

/-- All coefficients 0. -/
def cosZero : CosSum := ⟨0, 0, 0, 0, 0, 0, 0, 0⟩

/-- `A[m] <- A[m] + w` for `m` from 0 to 7; no change for another `m` (`cos(8 pi/16) = 0`). -/
def addAt (A : CosSum) (m w : Int) : CosSum :=
  if m = 0 then { A with a0 := A.a0 + w }
  else if m = 1 then { A with a1 := A.a1 + w }
  else if m = 2 then { A with a2 := A.a2 + w }
  else if m = 3 then { A with a3 := A.a3 + w }
  else if m = 4 then { A with a4 := A.a4 + w }
  else if m = 5 then { A with a5 := A.a5 + w }
  else if m = 6 then { A with a6 := A.a6 + w }
  else if m = 7 then { A with a7 := A.a7 + w }
  else A

/-- `addcos(A, m, w)` of R121: `A <- A + w * cos(m pi/16)`, any integer `m`. -/
def addcos (A : CosSum) (m w : Int) : CosSum :=
  let m := m % 32
  let m := if 16 < m then 32 - m else m
  if 8 < m then addAt A (16 - m) (-w) else addAt A m w

/-- What one sample adds in `decomp(P, u, v)` of R121. -/
def decompStep (u v : Nat) (A : CosSum) (r c : Nat) (s : Int) : CosSum :=
  let a : Int := (2 * r + 1) * u
  let b : Int := (2 * c + 1) * v
  if u = 0 ∧ v = 0 then addAt A 0 s
  else if u = 0 then addcos (addcos A (b + 4) s) (b - 4) s
  else if v = 0 then addcos (addcos A (a + 4) s) (a - 4) s
  else addcos (addcos A (a + b) s) (a - b) s

/-- `decomp(P, u, v)` of R121, over the 64 samples in row-major order. -/
def decomp (P : List Byte) (u v : Nat) : CosSum :=
  (List.range 64).foldl (fun A k => decompStep u v A (k / 8) (k % 8) (sample P (k / 8) (k % 8))) cosZero

/-! ### The tower of square roots -/

/-- `re + im * sqrt 2`. -/
structure Root2 where
  /-- The rational part. -/
  re : Int
  /-- The factor of `sqrt 2`. -/
  im : Int
deriving DecidableEq, Repr

/-- `re + im * sqrt (2 + sqrt 2)`. -/
structure Root4 where
  /-- The part in `Root2`. -/
  re : Root2
  /-- The factor of `sqrt (2 + sqrt 2)`. -/
  im : Root2
deriving DecidableEq, Repr

/-- `re + im * sqrt (2 + sqrt (2 + sqrt 2))`. -/
structure Root8 where
  /-- The part in `Root4`. -/
  re : Root4
  /-- The factor of `sqrt (2 + sqrt (2 + sqrt 2))`. -/
  im : Root4
deriving DecidableEq, Repr

/-- Sum. -/
def root2Add (p q : Root2) : Root2 := ⟨p.re + q.re, p.im + q.im⟩

/-- Negation. -/
def root2Neg (p : Root2) : Root2 := ⟨-p.re, -p.im⟩

/-- Product; `sqrt 2` squared is 2. -/
def root2Mul (p q : Root2) : Root2 := ⟨p.re * q.re + 2 * (p.im * q.im), p.re * q.im + p.im * q.re⟩

/-- `2 + sqrt 2`, the square of the next root. -/
def root2Next : Root2 := ⟨2, 1⟩

/-- Sum. -/
def root4Add (p q : Root4) : Root4 := ⟨root2Add p.re q.re, root2Add p.im q.im⟩

/-- Negation. -/
def root4Neg (p : Root4) : Root4 := ⟨root2Neg p.re, root2Neg p.im⟩

/-- Product; the root squared is `2 + sqrt 2`. -/
def root4Mul (p q : Root4) : Root4 :=
  ⟨root2Add (root2Mul p.re q.re) (root2Mul root2Next (root2Mul p.im q.im)), root2Add (root2Mul p.re q.im) (root2Mul p.im q.re)⟩

/-- `2 + sqrt (2 + sqrt 2)`, the square of the next root. -/
def root4Next : Root4 := ⟨⟨2, 0⟩, ⟨1, 0⟩⟩

/-- Negation. -/
def root8Neg (p : Root8) : Root8 := ⟨root4Neg p.re, root4Neg p.im⟩

/-- Subtract an integer. -/
def root8SubInt (p : Root8) (n : Int) : Root8 := { p with re := { p.re with re := { p.re.re with re := p.re.re.re - n } } }

/-- The sign of `p + q * sqrt d` (`d > 0`) from the signs of `p`, of `q` and of `p^2 - q^2 d`. -/
def signOfParts (sp sq sd : Int) : Int :=
  if sq = 0 then sp
  else if sp = 0 then sq
  else if sp = sq then sp
  else sp * sd

/-- The sign (-1, 0 or 1) of a `Root2`. -/
def root2Sign (p : Root2) : Int := signOfParts p.re.sign p.im.sign (p.re * p.re - 2 * (p.im * p.im)).sign

/-- The sign (-1, 0 or 1) of a `Root4`. -/
def root4Sign (p : Root4) : Int :=
  signOfParts (root2Sign p.re) (root2Sign p.im)
    (root2Sign (root2Add (root2Mul p.re p.re) (root2Neg (root2Mul root2Next (root2Mul p.im p.im)))))

/-- The sign (-1, 0 or 1) of a `Root8`. -/
def root8Sign (p : Root8) : Int :=
  signOfParts (root4Sign p.re) (root4Sign p.im)
    (root4Sign (root4Add (root4Mul p.re p.re) (root4Neg (root4Mul root4Next (root4Mul p.im p.im)))))

/-- `2 * (A_0 k_0 + ... + A_7 k_7)` in the tower. With `x`, `y`, `z` the three roots, `2 k_j` for j = 0 to 7 is
`2`, `z`, `y`, `z(y - 1)`, `x`, `z(x - y + 1)`, `xy - y`, `z(xy - x - 1)`. -/
def cosSumTower (A : CosSum) : Root8 where
  re := ⟨⟨2 * A.a0, A.a4⟩, ⟨A.a2 - A.a6, A.a6⟩⟩
  im := ⟨⟨A.a1 - A.a3 + A.a5 - A.a7, A.a5 - A.a7⟩, ⟨A.a3 - A.a5, A.a7⟩⟩

/-- `16 * coef(P, u, v)`, exactly. -/
def coef16 (P : List Byte) (u v : Nat) : Root8 := cosSumTower (decomp P u v)

end Sys2Proof.Machine
end

