-- ==== Sys2Proof/Machine/Quantizer.lean ====
section
/-! DEFINITION. The quantizer: rounding, levels, narrowing, packing, and the reference functions of the consumer (43_quantizer.md R125
to R134). -/

namespace Sys2Proof.Machine

/-- A `LevelBlock`: `L[y][x]`, first index the row (00_scope.md R8). -/
abbrev LevelBlock := Fin 4 → Fin 4 → Int

/-- The four indices of a row or a column, in order. -/
def index4 : List (Fin 4) := [0, 1, 2, 3]

/-- `QMATRIX[y][x]` (R125), the entry `QM[4y + x]` (10_state.md R20). -/
def weight (p : Params) (y x : Fin 4) : Nat := (p.qmatrix[4 * y.val + x.val]).toNat

/-- `t >= m - 1/2`, exactly, for `t = |coef| / Q` and `c16 = 16 |coef|`: `16 |coef| >= 8 Q (2m - 1)`. -/
def reachesLevel (c16 : Root8) (Q m : Nat) : Bool := decide (0 ≤ root8Sign (root8SubInt c16 (8 * Q * (2 * m - 1))))

/-- The greatest level from `n` up to `n + 2^b - 1` that is reached, the bits of it found from the highest down; level `n` counts as
reached. -/
def searchLevel (c16 : Root8) (Q : Nat) : Nat → Nat → Nat
  | 0, n => n
  | b + 1, n => if reachesLevel c16 Q (n + 2 ^ b) then searchLevel c16 Q b (n + 2 ^ b) else searchLevel c16 Q b n

/-- `round_haz(coef / Q)` (R126, R127) with the coefficient given as `16 coef` in the tower: round the magnitude half up, then restore the
sign. A magnitude below 2^12 is enough, since `|coef| <= 1024` (42_dct.md R122) and `Q >= 1`. -/
def levelOf (c16 : Root8) (Q : Nat) : Int :=
  if root8Sign c16 < 0 then -(searchLevel (root8Neg c16) Q 12 0 : Int) else (searchLevel c16 Q 12 0 : Int)

/-- `L[y][x]` of the block `P` (R127, 44_commands.md R144). -/
def level (p : Params) (P : List Byte) : LevelBlock := fun y x => levelOf (coef16 P y.val x.val) (weight p y x)

/-- `lane(l) = l mod 256` (R128): no clamp, no saturation. -/
def lane (l : Int) : Byte := BitVec.ofInt 8 l

/-- `W[y]` of `pack(L)` (R129). -/
def packRow (L : LevelBlock) (y : Fin 4) : Word := leWord (lane (L y 0)) (lane (L y 1)) (lane (L y 2)) (lane (L y 3))

/-- `pack(L)`: the four words (R129). -/
def pack (L : LevelBlock) : List Word := index4.map (packRow L)

/-- The four words as `OBUF` holds them: in row order, little-endian (R129, 30_encoding.md R72). -/
def wordBytes (ws : List Word) : List Byte := ws.flatMap leBytes

/-- `dctq_block(P, Q)` (R134). -/
def dctqBlock (p : Params) (P : List Byte) : List Word := pack (level p P)

/-- The level a lane reads back as: `value > 127 ? value - 256 : value` (R130, 30_encoding.md R73). -/
def laneLevel (b : Byte) : Int := if 127 < b.toNat then (b.toNat : Int) - 256 else b.toNat

/-- `unpack(W)`: `L'[y][x] = sext_8((W[y] >> 8x) & 0xFF)` (R130). -/
def unpackWord (w : Word) (x : Fin 4) : Int := laneLevel (laneByte w x.val)

/-- `dequantize(L', Q)` (R131). -/
def dequantize (p : Params) (L : LevelBlock) : LevelBlock := fun y x => L y x * (weight p y x : Int)

end Sys2Proof.Machine
end

