-- ==== Sys2Proof/Machine/BitOps.lean ====
section
/-! DEFINITION. The bit operations over byte groups and the per-byte transform (40_bitops.md R80 to R86). A byte group is a byte list. -/

namespace Sys2Proof.Machine

/-- Bit `i` of a group by the MSB-first index: bit `7 - (i mod 8)` of byte `g[i div 8]` (R80); 0 past the end
(filler, log entry 19). -/
def groupBit (g : List Byte) (i : Nat) : Bool :=
  match g[i / 8]? with
  | some b => b.getLsbD (7 - i % 8)
  | none => false

/-- `get_bit(data, i)` (R81): 0 or 1, or the error `OutOfRange`. -/
def getBit (data : List Byte) (i : Nat) : Except ErrKind Nat :=
  if 8 * data.length ≤ i then .error .outOfRange
  else .ok (groupBit data i).toNat

/-- The byte whose bits 7 down to 0 are `b7` to `b0`. -/
def byteOfBits (b7 b6 b5 b4 b3 b2 b1 b0 : Bool) : Byte :=
  BitVec.ofBool b7 ++ BitVec.ofBool b6 ++ BitVec.ofBool b5 ++ BitVec.ofBool b4 ++ BitVec.ofBool b3 ++ BitVec.ofBool b2 ++
    BitVec.ofBool b1 ++ BitVec.ofBool b0

/-- `reverse_bits(g)` (R82): bit `j` of the result is bit `8L - 1 - j` of the group. -/
def reverseBits (g : List Byte) : List Byte :=
  let src (j : Nat) : Bool := groupBit g (8 * g.length - 1 - j)
  (List.range g.length).map fun k =>
    byteOfBits (src (8 * k)) (src (8 * k + 1)) (src (8 * k + 2)) (src (8 * k + 3)) (src (8 * k + 4)) (src (8 * k + 5))
      (src (8 * k + 6)) (src (8 * k + 7))

/-- `reverse_endianness(g)` (R83): byte `k` of the result is byte `L - 1 - k` of the group. -/
def reverseEndianness (g : List Byte) : List Byte := g.reverse

/-- Nibble `j` of a group, two per byte, bits 7:4 first (R80); 0 past the end (filler, log entry 19). -/
def groupNibble (g : List Byte) (j : Nat) : BitVec 4 :=
  match g[j / 2]? with
  | some b => if j % 2 = 0 then b.extractLsb' 4 4 else b.extractLsb' 0 4
  | none => 0

/-- `reverse_nibbles(g)` (R84): nibble `j` of the result is nibble `2L - 1 - j` of the group. -/
def reverseNibbles (g : List Byte) : List Byte :=
  let src (j : Nat) : BitVec 4 := groupNibble g (2 * g.length - 1 - j)
  (List.range g.length).map fun k => src (2 * k) ++ src (2 * k + 1)

/-- `rev8(b)` (R82, R86): bit `t` of the result is bit `7 - t` of `b`. -/
def rev8 (b : Byte) : Byte :=
  byteOfBits (b.getLsbD 0) (b.getLsbD 1) (b.getLsbD 2) (b.getLsbD 3) (b.getLsbD 4) (b.getLsbD 5) (b.getLsbD 6) (b.getLsbD 7)

/-- `swap4(b) = ((b & 0x0F) << 4) | (b >> 4)` (R84). -/
def swap4 (b : Byte) : Byte := ((b &&& 0x0F#8) <<< 4) ||| (b >>> 4)

/-- `xf(tag, b)` (R86), with its error arm. -/
def xf (tag : Word) (b : Byte) : Except ErrKind Byte :=
  if tag = 0 then .ok b
  else if tag = 1 then .ok (rev8 b)
  else if tag = 2 then .ok (swap4 b)
  else if tag = 3 then .ok b
  else .error .unsupportedConfiguration

/-- The byte function of a legal tag (R98). The error arm of `xf` is never reached inside a command, because the tag is checked before any
work (R86, R164); here it leaves the byte as it is (filler, log entry 19). -/
def xfByte (tag : Word) (b : Byte) : Byte :=
  match xf tag b with
  | .ok c => c
  | .error _ => b

end Sys2Proof.Machine
end

