-- ==== Sys2Proof/Machine/Rle.lean ====
section
/-! DEFINITION. The RLE engine: run detection, tokenizer, serializer, and the reference decoder (41_rle.md R90 to R101). -/

namespace Sys2Proof.Machine

/-- A `RunPair`: `count` consecutive bytes equal to `value` (R90). -/
abbrev RunPair := Nat × Byte

/-- A `RunToken` (R90). -/
inductive RunToken where
  /-- `Repeat(count, value)`, count at least 1. -/
  | rept (count : Nat) (value : Byte)
  /-- `Sequence(values)`, at least one value. -/
  | seq (values : List Byte)
deriving DecidableEq, Repr

/-- The expansion of a token (R90). -/
def expandToken : RunToken → List Byte
  | .rept count value => List.replicate count value
  | .seq values => values

/-- The scan of R91 while a run of `n` bytes `v` is open. -/
def runsFrom (n : Nat) (v : Byte) : List Byte → List RunPair
  | [] => [(n, v)]
  | b :: bs => if b = v then runsFrom (n + 1) v bs else (n, v) :: runsFrom 1 b bs

/-- `run_lengths(s)` (R91), with `run_lengths([]) = []` (R92). -/
def runLengths : List Byte → List RunPair
  | [] => []
  | b :: bs => runsFrom 1 b bs

/-- Close the pending sequence buffer: an empty buffer yields no token (R93). -/
def flushBuf (buf : List Byte) : List RunToken := if buf = [] then [] else [.seq buf]

/-- The loop of R93 with the buffer `buf` pending. The comparison is strict: `count > m` becomes a repeat (90_conflicts.md C5). -/
def tokenizeFrom (m : Nat) (buf : List Byte) : List RunPair → List RunToken
  | [] => flushBuf buf
  | (count, value) :: ps =>
    if m < count then flushBuf buf ++ .rept count value :: tokenizeFrom m [] ps
    else tokenizeFrom m (buf ++ List.replicate count value) ps

/-- `tokenize(pairs, m)` (R93). -/
def tokenize (pairs : List RunPair) (m : Nat) : List RunToken := tokenizeFrom m [] pairs

/-- How `n` units are divided among records (R97): `ceil(n / 128)` records, every one but the last of 128, the last of the remainder.
`n = 0` gives no record: the spec leaves a count of 0 and an empty sequence token open (R90 requires 1 or more, 91_not_in_source.md N20), and
this is the model's filler (DESIGN CHOICE, log entry 19). -/
def chunkSizes (n : Nat) : List Nat :=
  if n = 0 then [] else List.replicate ((n - 1) / 128) 128 ++ [n - 128 * ((n - 1) / 128)]

/-- One repeat record of `chunk` units (R95): `0x80 | (chunk - 1)` and one transformed value byte. -/
def repeatRecordBytes (chunk : Nat) (v : Byte) : List Byte := [0x80#8 ||| BitVec.ofNat 8 (chunk - 1), v]

/-- `ser_repeat(count, value, f)` (R95), for a count of 1 or more; for 0 the filler of log entry 19. -/
def serRepeat (f : Byte → Byte) (count : Nat) (value : Byte) : List Byte :=
  (chunkSizes count).flatMap fun k => repeatRecordBytes k (f value)

/-- The records of a sequence cut at the given sizes (R96): `chunk - 1` and `chunk` transformed bytes each. -/
def serChunks (f : Byte → Byte) : List Nat → List Byte → List Byte
  | [], _ => []
  | k :: ks, values => BitVec.ofNat 8 (k - 1) :: (values.take k).map f ++ serChunks f ks (values.drop k)

/-- `ser_sequence(values, f)` (R96), for one value or more; for none the filler of log entry 19. -/
def serSequence (f : Byte → Byte) (values : List Byte) : List Byte := serChunks f (chunkSizes values.length) values

/-- The records of one token (R95, R96). -/
def serToken (f : Byte → Byte) : RunToken → List Byte
  | .rept count value => serRepeat f count value
  | .seq values => serSequence f values

/-- `serialize(tokens, f)` (R99): nothing between the records nor at the ends. -/
def serialize (f : Byte → Byte) (tokens : List RunToken) : List Byte := tokens.flatMap (serToken f)

/-- `rle_encode(s, m, tag)` (R100). -/
def rleEncode (s : List Byte) (m : Nat) (tag : Word) : List Byte :=
  serialize (xfByte tag) (tokenize (runLengths s) m)

/-- The bytes a record expands to (R101); nothing for an object that is no record (filler, log entry 19). -/
def recordExpansion : Instr → List Byte
  | .repeatRecord lm1 value => List.replicate (lm1.toNat + 1) value
  | .sequenceRecord _ values => values
  | _ => []

/-- `rle_decode`, as many records as the fuel allows. -/
def rleDecodeFuel : Nat → List Byte → Option (List Byte)
  | _, [] => some []
  | 0, _ :: _ => none
  | n + 1, h :: t =>
    match decodeHdr (h :: t) with
    | .error _ => none
    | .ok (i, rest) => (rleDecodeFuel n rest).map (recordExpansion i ++ ·)

/-- `rle_decode(stream)` (R101): nothing on a stream that ends inside a record (92_eei_decisions.md D31). Every record takes a byte, so the
stream's length is fuel enough. -/
def rleDecode (stream : List Byte) : Option (List Byte) := rleDecodeFuel stream.length stream

end Sys2Proof.Machine
end

