-- ==== Sys2Proof/Machine/Commands.lean ====
section
/-! DEFINITION. The commands (44_commands.md R140 to R146): the checks, the work, the completion step, and the five command rows.

A command word is met twice in its life (log entry 1). While the block is `IDLE` the host's write to `CMD` launches it (R140). While the
block is `BUSY` with that word in `cur_op` the block completes it (R141). The meaning of a command row is both halves, and the phase says
which. `NOP` and `CLEAR` have the first half only. -/

namespace Sys2Proof.Machine

/-- The checks of 60_exceptions.md R164 in their fixed order: the first that fails. -/
def checks (p : Params) (op bpp xform len : Word) : Option ErrKind :=
  if 4 ≤ op.toNat then some .unsupportedConfiguration
  else if op = 1 ∧ ¬(bpp = 1 ∨ bpp = 4) then some .unsupportedConfiguration
  else if op = 2 ∧ bpp ≠ 8 then some .unsupportedConfiguration
  else if op = 1 ∧ 4 ≤ xform.toNat then some .unsupportedConfiguration
  else if op = 1 ∧ p.ibufSize < len.toNat then some .outOfRange
  else if op = 1 ∧ len = 0 ∧ p.emptyInputFaults = true then some .emptyInput
  else none

/-- `exec_rle()` (R143). If a byte of the input was not written since reset the output is unspecified, at most `2 * LEN` bytes (R185). -/
def rleWork (s : State) : State :=
  match rleInput s with
  | some bytes => writeOutput (rleEncode bytes s.minseq.toNat s.xform) s
  | none => writeFreeOutput (freeOutputLength s) (advance 1 s)

/-- `exec_dctq()` (R144). If a byte of the input was not written since reset the 16 bytes are unspecified (R185). -/
def dctqWork (s : State) : State :=
  match dctqInput s with
  | some bytes => writeOutput (wordBytes (dctqBlock s.cfg bytes)) s
  | none => writeFreeOutput 16 s

/-- What `complete()` computes, by `cur_op` (R141). -/
def commandWork (s : State) : State :=
  if s.curOp = 1 then rleWork s
  else if s.curOp = 2 then dctqWork s
  else s

/-- `complete()` of R141: all checks, then all work, or the error. -/
def complete (s : State) : State :=
  match checks s.cfg s.curOp s.bpp s.xform s.len with
  | some e => raiseError e s
  | none => finish (commandWork s)

/-- A command word that has a `BUSY` phase: launched while `IDLE`; completed while it is the one running; dropped while another is (R183). -/
def runCommand (op : Word) (s : State) : State :=
  if s.isBusy then if s.curOp = op then complete s else s
  else launch op s

/-- `NOP` (R142): no state changes, in either phase. -/
def execNop (s : State) : Host.Outcome State Fault Refusal := .next (launch 0 s)

/-- `RLE` (R143). -/
def execRle (s : State) : Host.Outcome State Fault Refusal := .next (runCommand 1 s)

/-- `DCTQ` (R144). -/
def execDctq (s : State) : Host.Outcome State Fault Refusal := .next (runCommand 2 s)

/-- `CLEAR` (R145): the report is cleared while `IDLE`, the write is dropped while `BUSY`. -/
def execClear (s : State) : Host.Outcome State Fault Refusal := .next (launch 3 s)

/-- A reserved command word (R146): launched like a real command, and its completion raises `UnsupportedConfiguration`. -/
def execReservedCmd (op : Word) (s : State) : Host.Outcome State Fault Refusal := .next (runCommand op s)

end Sys2Proof.Machine
end

