-- ==== Sys2Proof/Machine/Stream.lean ====
section
/-! DEFINITION. The stream records and the packed word as the consumer meets them (41_rle.md R101, 43_quantizer.md R130; log entry 3). The
block produces them inside a completion step (R95, R96, R129), where nothing of them can be observed (20_memory.md R51). -/

namespace Sys2Proof.Machine

/-- One turn of the loop of `rle_decode` (R101): the bytes `out` are appended, `p` moves past a record of `size` bytes. -/
def takeRecord (out : List Byte) (size : Nat) (s : State) : State :=
  setConsumer { s.consumer with out := s.consumer.out ++ out, pos := s.consumer.pos + size } s

/-- `REPEAT_RECORD`: `LM1 + 1` copies of the value byte; the record has 2 bytes (R69, R70, R101). -/
def execRepeatRecord (lm1 : BitVec 7) (value : Byte) (s : State) : Host.Outcome State Fault Refusal :=
  .next (takeRecord (recordExpansion (.repeatRecord lm1 value)) 2 s)

/-- `SEQUENCE_RECORD`: the value bytes; the record has one byte more (R69, R70, R101). -/
def execSequenceRecord (lm1 : BitVec 7) (values : List Byte) (s : State) : Host.Outcome State Fault Refusal :=
  .next (takeRecord (recordExpansion (.sequenceRecord lm1 values)) (1 + values.length) s)

/-- `QWORD`: the host has read the word; the consumer sign-extends its four lanes, column 0 first (R72, R73, R130). -/
def execQword (q0 q1 q2 q3 : Byte) (s : State) : Host.Outcome State Fault Refusal :=
  .next (setConsumer
    { s.consumer with levels := s.consumer.levels ++ [laneLevel q0, laneLevel q1, laneLevel q2, laneLevel q3] }
    (setRead (leWord q0 q1 q2 q3) s))

/-- `rle_decode` returns failure: the stream ends inside a record (R101). -/
def failStream (s : State) : State := setConsumer { s.consumer with failed := true } s

end Sys2Proof.Machine
end

