-- ==== Sys2Proof/Machine/Values.lean ====
section
/-! DEFINITION. The register values that are rows of the opcode table. A value that lives in `XFORM` or `BPP` is put there by the host's
register write (44_commands.md R148); a value of `ERRCODE` or `STATUS` is read by the host's register read (R147), which also tells whether
the value read is the row's (log entry 2). -/

namespace Sys2Proof.Machine

/-- `WR XFORM, tag` (R148, 30_encoding.md R64). What the tag does to a byte is `xf` (40_bitops.md R86). -/
def writeXform (tag : Word) (s : State) : Host.Outcome State Fault Refusal := .next (writeReg .xform tag s)

/-- `WR BPP, depth` (R148, 30_encoding.md R65). -/
def writeBpp (depth : Word) (s : State) : Host.Outcome State Fault Refusal := .next (writeReg .bpp depth s)

/-- `RD reg` (R147), and whether the value read is `v`. -/
def readAndMatch (r : Reg) (v : Word) (s : State) : Host.Outcome State Fault Refusal :=
  .next (setMatch (regValue r s == v) (readReg r s))

/-- `XFORM_NONE` (R64, R86). -/
def execXformNone (s : State) : Host.Outcome State Fault Refusal := writeXform 0 s

/-- `XFORM_REVBITS` (R64, R86). -/
def execXformRevbits (s : State) : Host.Outcome State Fault Refusal := writeXform 1 s

/-- `XFORM_REVNIB` (R64, R86). -/
def execXformRevnib (s : State) : Host.Outcome State Fault Refusal := writeXform 2 s

/-- `XFORM_REVEND` (R64, R86). -/
def execXformRevend (s : State) : Host.Outcome State Fault Refusal := writeXform 3 s

/-- `XFORM_RESERVED` (R64): nothing is checked at write time (10_state.md R11); an `RLE` command then ends in
`UnsupportedConfiguration` (60_exceptions.md R162). -/
def execXformReserved (tag : Word) (s : State) : Host.Outcome State Fault Refusal := writeXform tag s

/-- `BPP_1` (R65). -/
def execBpp1 (s : State) : Host.Outcome State Fault Refusal := writeBpp 1 s

/-- `BPP_4` (R65). -/
def execBpp4 (s : State) : Host.Outcome State Fault Refusal := writeBpp 4 s

/-- `BPP_8` (R65). -/
def execBpp8 (s : State) : Host.Outcome State Fault Refusal := writeBpp 8 s

/-- `ERR_NONE` (R66, 60_exceptions.md R160). -/
def execErrNone (s : State) : Host.Outcome State Fault Refusal := readAndMatch .errcode 0 s

/-- `ERR_OUT_OF_RANGE` (R66, 60_exceptions.md R161). -/
def execErrOutOfRange (s : State) : Host.Outcome State Fault Refusal := readAndMatch .errcode 1 s

/-- `ERR_UNSUPPORTED_CONFIGURATION` (R66, 60_exceptions.md R162). -/
def execErrUnsupportedConfiguration (s : State) : Host.Outcome State Fault Refusal := readAndMatch .errcode 2 s

/-- `ERR_EMPTY_INPUT` (R66, 60_exceptions.md R163). -/
def execErrEmptyInput (s : State) : Host.Outcome State Fault Refusal := readAndMatch .errcode 3 s

/-- `STATUS_IDLE_NOTHING_FINISHED` (R67, 10_state.md R13). -/
def execStatusIdleNothingFinished (s : State) : Host.Outcome State Fault Refusal := readAndMatch .status 0 s

/-- `STATUS_BUSY` (R67, 10_state.md R13). -/
def execStatusBusy (s : State) : Host.Outcome State Fault Refusal := readAndMatch .status 1 s

/-- `STATUS_DONE_OK` (R67, 10_state.md R13). -/
def execStatusDoneOk (s : State) : Host.Outcome State Fault Refusal := readAndMatch .status 2 s

/-- `STATUS_DONE_ERROR` (R67, 10_state.md R13). -/
def execStatusDoneError (s : State) : Host.Outcome State Fault Refusal := readAndMatch .status 6 s

end Sys2Proof.Machine
end

