-- ==== Sys2Proof/Machine/Dispatch.lean ====
section
/-! DEFINITION. One arm per row of the opcode table. -/

namespace Sys2Proof.Machine

def exec (i : Instr) (s : State) : Host.Outcome State Fault Refusal :=
  match i with
  | .nop => Sys2Proof.Machine.execNop s
  | .rle => Sys2Proof.Machine.execRle s
  | .dctq => Sys2Proof.Machine.execDctq s
  | .clear => Sys2Proof.Machine.execClear s
  | .reservedCmd op => Sys2Proof.Machine.execReservedCmd op s
  | .repeatRecord lm1 value => Sys2Proof.Machine.execRepeatRecord lm1 value s
  | .sequenceRecord lm1 values => Sys2Proof.Machine.execSequenceRecord lm1 values s
  | .qword q0 q1 q2 q3 => Sys2Proof.Machine.execQword q0 q1 q2 q3 s
  | .xformNone => Sys2Proof.Machine.execXformNone s
  | .xformRevbits => Sys2Proof.Machine.execXformRevbits s
  | .xformRevnib => Sys2Proof.Machine.execXformRevnib s
  | .xformRevend => Sys2Proof.Machine.execXformRevend s
  | .xformReserved tag => Sys2Proof.Machine.execXformReserved tag s
  | .errNone => Sys2Proof.Machine.execErrNone s
  | .errOutOfRange => Sys2Proof.Machine.execErrOutOfRange s
  | .errUnsupportedConfiguration => Sys2Proof.Machine.execErrUnsupportedConfiguration s
  | .errEmptyInput => Sys2Proof.Machine.execErrEmptyInput s
  | .statusIdleNothingFinished => Sys2Proof.Machine.execStatusIdleNothingFinished s
  | .statusBusy => Sys2Proof.Machine.execStatusBusy s
  | .statusDoneOk => Sys2Proof.Machine.execStatusDoneOk s
  | .statusDoneError => Sys2Proof.Machine.execStatusDoneError s
  | .bpp1 => Sys2Proof.Machine.execBpp1 s
  | .bpp4 => Sys2Proof.Machine.execBpp4 s
  | .bpp8 => Sys2Proof.Machine.execBpp8 s

end Sys2Proof.Machine
end

