-- ==== Sys2Proof/Machine/Fetch.lean ====
section
/-! DEFINITION. What the next step is: the block's completion step, or the next event of the outside (20_memory.md R46, 44_commands.md
R141), and which row of the opcode table that event carries, if any. -/

namespace Sys2Proof.Machine

/-- What one step does. -/
inductive Action where
  /-- No step is enabled: the block is idle and the host has nothing to do (60_exceptions.md R170); or an event with no effect. -/
  | wait
  /-- The block's completion step (R141). -/
  | complete
  /-- A row of the opcode table. -/
  | instr (i : Instr)
  /-- A host access that carries no row. -/
  | access (a : Access)
  /-- One read of `DUMP`. -/
  | dumpByte (k : Nat)
  /-- The reset input. -/
  | reset
  /-- The consumer meets a stream that ends inside a record. -/
  | cut
deriving DecidableEq, Repr

/-- The block takes its completion step now: it is `BUSY`, and either the drawn number of host events has come or the host has no more
(R141, R187; log entry 9). -/
def completionDue (s : State) : Bool := s.isBusy && (s.window == 0 || s.program.isEmpty)

/-- The row of the opcode table that a host access carries, if any: a word written to `CMD` while the block is idle (while it is `BUSY` the
write is dropped, R183), a tag written to `XFORM`, a legal depth written to `BPP`, the value read from `STATUS` or `ERRCODE`. -/
def accessInstr (a : Access) (s : State) : Option Instr :=
  match a with
  | .write .word off v =>
    if off = regOffset .cmd then if s.isBusy then none else some (decodeCmd v)
    else if off = regOffset .xform then some (decodeXform v)
    else if off = regOffset .bpp then (decodeBpp v).toOption
    else none
  | .read .word off =>
    if off = regOffset .status then (decodeStatus (statusWord s)).toOption
    else if off = regOffset .errcode then (decodeErrcode (errcodeWord s)).toOption
    else none
  | .write .byte _ _ => none
  | .write .half _ _ => none
  | .read .byte _ => none
  | .read .half _ => none

/-- The action of a host access. -/
def accessAction (a : Access) (s : State) : Action :=
  match accessInstr a s with
  | some i => .instr i
  | none => .access a

/-- The access of `RD STATUS`. -/
def readStatus : Access := .read .word (regOffset .status)

/-- The state after the next event has been taken off: `rest` is left to do, and one host event has come. -/
def popTo (rest : List Event) (s : State) : State := tick (setProgram rest s)

/-- The consumer's next record (41_rle.md R101): at the end of the stream, or after a failure, there is none. -/
def recordAction (c : Consumer) : Action :=
  if c.failed then .wait
  else if c.array.length ≤ c.pos then .wait
  else
    match decodeHdr (c.array.drop c.pos) with
    | .ok (i, _) => .instr i
    | .error _ => .cut

/-- The next step's action, and the state it acts on. -/
def fetch (s : State) : Action × State :=
  if completionDue s then (.complete, s)
  else
    match s.program with
    | [] => (.wait, s)
    | .access a :: rest => (accessAction a s, popTo rest s)
    | .rst :: rest => (.reset, popTo rest s)
    | .poll :: rest => (accessAction readStatus s, popTo (if s.done then rest else .poll :: rest) s)
    | .dump k n :: rest =>
      if k < n then (.dumpByte k, popTo (if k + 1 < n then .dump (k + 1) n :: rest else rest) s) else (.wait, popTo rest s)
    | .record :: rest => (recordAction s.consumer, popTo rest s)
    | .row y :: rest => (.instr (decodeQword (bufferWord s (obufBase + 4 * y.toNat))), advance 4 (popTo rest s))

/-- Put an event where the next step takes it: an idle block, and the event first in the host's program. -/
def placeEvent (e : Event) (s : State) : State := { s with phase := .idle, program := e :: s.program }

/-- Put a table row's number where the next step takes it (log entry 15): a 32-bit number is written to `CMD`; an 8-bit one is a stream
header, followed by zeros, at the start of an emitted array the consumer reads. -/
def placeTableWord (nbits w : Nat) (s : State) : State :=
  if nbits = 8 then
    placeEvent .record (setConsumer { s.consumer with array := tableBytes nbits w, pos := 0, failed := false } s)
  else placeEvent (.access (.write .word (regOffset .cmd) (BitVec.ofNat 32 w))) s

end Sys2Proof.Machine
end

