-- ==== Sys2Proof/Machine/Step.lean ====
section
/-! DEFINITION. One step of the machine. -/

namespace Sys2Proof.Machine

/-- Carry out an action. -/
def perform (a : Action) (s : State) : Host.Outcome State Fault Refusal :=
  match a with
  | .wait => .next s
  | .complete => .next (complete s)
  | .instr i => exec i s
  | .access a => access a s
  | .dumpByte k => dumpByte k s
  | .reset => .next (applyReset s)
  | .cut => .next (failStream s)

/-- One step: the block's completion step or one event of the outside (20_memory.md R46). A machine whose parameters break 00_scope.md R5
or 30_encoding.md R74 is not this hardware (log entry 16). -/
def step (s : State) : Host.Outcome State Fault Refusal :=
  if Config.wellFormed s.cfg then perform (fetch s).1 (fetch s).2 else .fault .badParameters

/-- The state with a table row's number where the next step takes it (log entry 15). -/
def State.withFetchWord (s : State) (nbits w : Nat) : State := placeTableWord nbits w s

end Sys2Proof.Machine
end

