-- ==== Sys2Proof/Machine/HostProgram.lean ====
section
/-! DEFINITION. The host notation of 30_encoding.md R76: each line as the access it stands for, each pseudo-line as its expansion. -/

namespace Sys2Proof.Machine

/-- `WR reg, v`: `(W4, offset(reg), v)`. -/
def lineWr (r : Reg) (v : Word) : Event := .access (.write .word (regOffset r) v)

/-- `RD reg`: `(R4, offset(reg))`. -/
def lineRd (r : Reg) : Event := .access (.read .word (regOffset r))

/-- `WRB IBUF[i], b`: `(W1, 0x10000 + i, b)`. -/
def lineWrb (i : Nat) (b : Byte) : Event := .access (.write .byte (BitVec.ofNat 18 (ibufBase + i)) (b.setWidth 32))

/-- `WRW IBUF[i], w`: `(W4, 0x10000 + i, w)`. -/
def lineWrw (i : Nat) (w : Word) : Event := .access (.write .word (BitVec.ofNat 18 (ibufBase + i)) w)

/-- `RDB IBUF[i]`: `(R1, 0x10000 + i)`. -/
def lineRdbIbuf (i : Nat) : Event := .access (.read .byte (BitVec.ofNat 18 (ibufBase + i)))

/-- `RDB OBUF[i]`: `(R1, 0x20000 + i)`. -/
def lineRdbObuf (i : Nat) : Event := .access (.read .byte (BitVec.ofNat 18 (obufBase + i)))

/-- `RDW IBUF[i]`: `(R4, 0x10000 + i)`. -/
def lineRdwIbuf (i : Nat) : Event := .access (.read .word (BitVec.ofNat 18 (ibufBase + i)))

/-- `RDW OBUF[i]`: `(R4, 0x20000 + i)`. -/
def lineRdwObuf (i : Nat) : Event := .access (.read .word (BitVec.ofNat 18 (obufBase + i)))

/-- `NOP`: `WR CMD, 0`. -/
def lineNop : Event := lineWr .cmd 0

/-- `RLE`: `WR CMD, 1`. -/
def lineRle : Event := lineWr .cmd 1

/-- `DCTQ`: `WR CMD, 2`. -/
def lineDctq : Event := lineWr .cmd 2

/-- `CLEAR`: `WR CMD, 3`. -/
def lineClear : Event := lineWr .cmd 3

/-- `LOAD [b0, ..., bn-1]` from index `i` on: `WRB IBUF[i], b0` and so on. -/
def lineLoad (i : Nat) : List Byte → List Event
  | [] => []
  | b :: bs => lineWrb i b :: lineLoad (i + 1) bs

/-- `POLL`. -/
def linePoll : Event := .poll

/-- `DUMP n`. -/
def lineDump (n : Nat) : Event := .dump 0 n

end Sys2Proof.Machine
end

