-- ==== Sys2Proof/Machine/Reference.lean ====
section
/-! DEFINITION. The reference functions over real numbers (42_dct.md R110 to R118, 43_quantizer.md R126, R127). No step calls them: the
machine runs the exact integer method of Dct.lean, and statements compare the two (log entry 18). -/

namespace Sys2Proof.Machine

/-- `scale(k)` of R110. -/
noncomputable def dctScale (N k : Nat) : ℝ := if k = 0 then 1 / √2 * √(2 / N) else √(2 / N)

/-- `dct(x)`, the forward DCT-II of size `N` (R110). -/
noncomputable def dct {N : Nat} (x : Fin N → ℝ) : Fin N → ℝ := fun k =>
  dctScale N k.val * ∑ n : Fin N, x n * Real.cos (Real.pi / N * k.val * (n.val + 0.5))

/-- `idct(X)`, the inverse DCT-III of size `N` (R111): `X[0]` is divided by `√2` first. -/
noncomputable def idct {N : Nat} (X : Fin N → ℝ) : Fin N → ℝ := fun n =>
  ∑ k : Fin N, (if k.val = 0 then X k / √2 else X k) * Real.cos (Real.pi / N * k.val * (n.val + 0.5)) * √(2 / N)

/-- `c(k)` of R113. -/
noncomputable def dctC (k : Nat) : ℝ := if k = 0 then 1 / √2 else 1

/-- `dct2d(M)`, the forward DCT-II over an `N` by `N` matrix (R113). -/
noncomputable def dct2d {N : Nat} (M : Fin N → Fin N → ℝ) : Fin N → Fin N → ℝ := fun u v =>
  dctC u.val * dctC v.val * (2 / N) * ∑ r : Fin N, ∑ c : Fin N,
    M r c * Real.cos (Real.pi * u.val * (2 * r.val + 1) / (2 * N)) * Real.cos (Real.pi * v.val * (2 * c.val + 1) / (2 * N))

/-- `idct2d(F)`, the inverse over an `N` by `N` matrix (R114). -/
noncomputable def idct2d {N : Nat} (F : Fin N → Fin N → ℝ) : Fin N → Fin N → ℝ := fun r c =>
  (2 / N) * ∑ u : Fin N, ∑ v : Fin N,
    dctC u.val * dctC v.val * F u v * Real.cos (Real.pi * u.val * (2 * r.val + 1) / (2 * N)) *
      Real.cos (Real.pi * v.val * (2 * c.val + 1) / (2 * N))

/-- `coef(P, u, v)`, the coefficient the block computes (R118). -/
noncomputable def coef (P : List Byte) (u v : Nat) : ℝ :=
  dctC u * dctC v * (1 / 4) * ∑ r : Fin 8, ∑ c : Fin 8,
    (sample P r.val c.val : ℝ) * Real.cos ((2 * r.val + 1) * u * Real.pi / 16) * Real.cos ((2 * c.val + 1) * v * Real.pi / 16)

/-- `round_haz(t)`, nearest integer with ties away from zero (R126), over any ordered field with a floor. -/
def roundHaz {K : Type} [Field K] [LinearOrder K] [FloorRing K] (t : K) : Int :=
  if 0 ≤ t then ⌊t + 1 / 2⌋ else -⌊-t + 1 / 2⌋

/-- `quantize(F, Q)` (R127). -/
def quantize {K : Type} [Field K] [LinearOrder K] [FloorRing K] (p : Params) (F : Fin 4 → Fin 4 → K) : LevelBlock := fun y x =>
  roundHaz (F y x / (weight p y x : K))

end Sys2Proof.Machine
end

