-- ==== Sys2Proof/Safety.lean ====
section
/-! DEFINITION. The terms claims are stated in: what of a state is the block's, where output lies, and the invariant of the machine. -/

namespace Sys2Proof.Machine

/-- The state with the model's own fields blanked: what is left is what the spec gives the block (10_state.md R10). -/
def blockPart (s : State) : State :=
  { s with window := 0, freeIdx := 0, readData := 0, readMatch := false, program := [], consumer := Consumer.fresh }

/-- The offset lies in the `IBUF` or the `OBUF` window (20_memory.md R41). -/
def inBuffers (p : Params) (a : Nat) : Prop :=
  (ibufBase ≤ a ∧ a < ibufBase + p.ibufSize) ∨ (obufBase ≤ a ∧ a < obufBase + obufSize p)

/-- The offset is one of `OBUF[0 : n]`. -/
def inOutput (n a : Nat) : Prop := obufBase ≤ a ∧ a < obufBase + n

/-- The configuration under which `RLE` passes its checks (60_exceptions.md R164). -/
def rleLegal (s : State) : Prop :=
  (s.bpp = 1 ∨ s.bpp = 4) ∧ s.xform.toNat < 4 ∧ s.len.toNat ≤ s.cfg.ibufSize ∧ (s.len = 0 → s.cfg.emptyInputFaults = false)

/-- The invariant of the machine: every state a run from reset reaches has it, and every step keeps it. -/
structure State.Inv (s : State) : Prop where
  /-- The parameters are ones this hardware has (R5, R74). -/
  params : Config.wellFormed s.cfg = true
  /-- The memory is in its canonical form. -/
  memForm : s.mem.wf = true
  /-- Only buffer bytes are stored (R41). -/
  memPlace : ∀ c ∈ s.mem, inBuffers s.cfg c.1
  /-- While `BUSY` there is no report, no output, and a command that has a `BUSY` phase is running (R13, R140). -/
  busyClean : s.phase = .busy →
    s.done = false ∧ s.outlen = 0 ∧ s.curOp ≠ 0 ∧ s.curOp ≠ 3
  /-- `ERR = 1` implies `DONE = 1` (R13). -/
  errDone : s.err = true → s.done = true
  /-- `ERR = 1` if and only if `ERRCODE` is not 0 (R13). -/
  errCode : s.err = true ↔ s.errcode ≠ 0
  /-- A command that ended in error has no output, nor has one that has not finished (R19). -/
  noOutput : s.err = true ∨ s.done = false → s.outlen = 0
  /-- The output fits (R22, 41_rle.md R103). -/
  outFits : s.outlen.toNat ≤ obufSize s.cfg
  /-- Every byte of the output holds a stored value (R19, R22). -/
  outStored : ∀ k, k < s.outlen.toNat → (s.mem.read (obufBase + k)).isSome = true

end Sys2Proof.Machine
end

