-- ==== Sys2Proof/Certificates/Slice0/Obligations.lean ====
section
/-! DEFINITION. The statements about the model, file by file of the spec. -/

open Sys2Proof Sys2Proof.Machine

/-! ### Encodings (30_encoding.md) -/

/-- Decoding the encoding of a well-formed object, at the object's place, gives the object back and leaves what follows it. -/
def Obligations.DecodeEncodeRoundTrip : Prop :=
  ∀ (i : Instr) (rest : List Byte), i.wf = true → decode i.place (encode i ++ rest) = .ok (i, rest)

/-- Whatever the decoder accepts at a place is a well-formed object of that place, and its encoding is exactly the bytes it took. -/
def Obligations.DecodedObjectIsExactlyItsBytes : Prop :=
  ∀ (p : Place) (bytes : List Byte) (i : Instr) (rest : List Byte), decode p bytes = .ok (i, rest) →
    i.wf = true ∧ i.place = p ∧ encode i ++ rest = bytes

/-- R70: the header alone tells the record's length: 2 bytes if bit 7 is set, `1 + (LM1 + 1)` otherwise; every header is meaningful, and
the next header is the byte after the record. The 128 bytes after the header are enough for any record. -/
def Obligations.HeaderAloneTellsRecordLength : Prop :=
  ∀ (h : Byte) (t : List Byte), 128 ≤ t.length →
    (128 ≤ h.toNat → ∃ v, t.head? = some v ∧
      decodeHdr (h :: t) = .ok (.repeatRecord (BitVec.ofNat 7 (h.toNat - 128)) v, (h :: t).drop 2)) ∧
    (h.toNat < 128 →
      decodeHdr (h :: t) =
        .ok (.sequenceRecord (BitVec.ofNat 7 h.toNat) (t.take (h.toNat + 1)), (h :: t).drop (1 + (h.toNat + 1))))

/-- Words and bytes written out from the tables R62 to R67, R69 and R72, one or more of every place, decode to the rows they stand for. -/
def Obligations.TableWordsDecode : Prop :=
  decode .cmd [1, 0, 0, 0] = .ok (.rle, []) ∧ decode .cmd [2, 0, 0, 0] = .ok (.dctq, []) ∧
  decode .cmd [1, 1, 0, 0] = .ok (.reservedCmd 0x101, []) ∧ decode .xform [2, 0, 0, 0] = .ok (.xformRevnib, []) ∧
  decode .bpp [8, 0, 0, 0] = .ok (.bpp8, []) ∧ decode .bpp [2, 0, 0, 0] = .error (.illegalDepth 2) ∧
  decode .errcode [3, 0, 0, 0] = .ok (.errEmptyInput, []) ∧ decode .status [6, 0, 0, 0] = .ok (.statusDoneError, []) ∧
  decode .hdr [0x83, 0xFF] = .ok (.repeatRecord 3 0xFF, []) ∧ decode .hdr [0x01, 7, 9, 5] = .ok (.sequenceRecord 1 [7, 9], [5]) ∧
  decode .qword [0xEA, 0xE5, 0, 0xFE] = .ok (.qword 0xEA 0xE5 0 0xFE, [])

/-- R67: `STATUS` bit by bit; and under the machine's invariant it reads one of the four values. -/
def Obligations.StatusReadsOneOfFourValues : Prop :=
  ∀ s : State,
    ((statusWord s).getLsbD 0 = true ↔ s.phase = .busy) ∧ (statusWord s).getLsbD 1 = s.done ∧ (statusWord s).getLsbD 2 = s.err ∧
    (∀ j, 3 ≤ j → (statusWord s).getLsbD j = false) ∧
    (s.Inv → statusWord s = 0 ∨ statusWord s = 1 ∨ statusWord s = 2 ∨ statusWord s = 6)

/-! ### The step and the rows -/

/-- A host access, a record or a packed word that decodes to a row is carried out as that row, after the event is taken off and, where the
block is `BUSY`, counted against the `BUSY` window. -/
def Obligations.StepRunsTheDecodedRow : Prop :=
  ∀ (s : State) (rest : List Event) (i : Instr), Config.wellFormed s.cfg = true → completionDue s = false →
    let t : State := { s with program := rest, window := s.window - 1 }
    (∀ v, s.phase = .idle → s.program = lineWr .cmd v :: rest → decode .cmd (leBytes v) = .ok (i, []) → step s = exec i t) ∧
    (∀ v, s.program = lineWr .xform v :: rest → decode .xform (leBytes v) = .ok (i, []) → step s = exec i t) ∧
    (∀ v, s.program = lineWr .bpp v :: rest → decode .bpp (leBytes v) = .ok (i, []) → step s = exec i t) ∧
    (s.program = lineRd .errcode :: rest → decode .errcode (leBytes (errcodeWord s)) = .ok (i, []) → step s = exec i t) ∧
    (s.program = lineRd .status :: rest → decode .status (leBytes (statusWord s)) = .ok (i, []) → step s = exec i t) ∧
    (s.program = .record :: rest → s.consumer.failed = false →
      (∃ more, decode .hdr (s.consumer.array.drop s.consumer.pos) = .ok (i, more)) → step s = exec i t) ∧
    (∀ y, s.program = .row y :: rest → decode .qword (leBytes (bufferWord s (obufBase + 4 * y.toNat))) = .ok (i, []) →
      step s = exec i { t with freeIdx := t.freeIdx + 4 })

/-- When the completion step is due, the step is the meaning of the command word in `cur_op`. -/
def Obligations.CompletionStepRunsTheLatchedRow : Prop :=
  ∀ (s : State) (i : Instr), s.Inv → completionDue s = true → decode .cmd (leBytes s.curOp) = .ok (i, []) → step s = exec i s

/-! ### Commands (44_commands.md, 60_exceptions.md) -/

/-- R140: launch, in every case: a write to `CMD` is dropped while `BUSY`, 0 does nothing, 3 clears the report only, every other word
clears it, latches the word and makes the block `BUSY`; nothing else changes, and nothing is checked. -/
def Obligations.CmdWriteLaunches : Prop :=
  ∀ (s : State) (w : Word), ∃ t, access (.write .word 0x00000 w) s = .next t ∧
    (s.phase = .busy → t = s) ∧ (s.phase = .idle → w = 0 → t = s) ∧
    (s.phase = .idle → w = 3 → t = { s with done := false, err := false, errcode := 0, outlen := 0 }) ∧
    (s.phase = .idle → w ≠ 0 → w ≠ 3 →
      statusWord t = 1 ∧ t.curOp = w ∧
      t = { s with
        done := false, err := false, errcode := 0, outlen := 0, curOp := w, phase := .busy, window := t.window,
        freeIdx := t.freeIdx })

/-- R142: `NOP` changes no state, whether the block is `IDLE` or `BUSY`. -/
def Obligations.NopChangesNothing : Prop := ∀ s : State, exec .nop s = .next s

/-- R145: `CLEAR` while `IDLE` clears `DONE`, `ERR`, `ERRCODE` and `OUTLEN` and nothing else, and is dropped while `BUSY`. -/
def Obligations.ClearClearsTheReport : Prop :=
  ∀ s : State,
    (s.phase = .idle → exec .clear s = .next { s with done := false, err := false, errcode := 0, outlen := 0 }) ∧
    (s.phase = .busy → exec .clear s = .next s)

/-- `RLE` from its launch to its result: with a legal configuration and a written input it ends with `STATUS = 2`, the encoding of the
input in `OBUF[0 : OUTLEN]`, and everything else as it was. -/
def Obligations.RleCommandEncodesItsInput : Prop :=
  ∀ (s : State) (bytes : List Byte), s.Inv → s.phase = .idle → rleLegal s → bytes.length = s.len.toNat →
    (∀ k, k < bytes.length → s.mem.read (ibufBase + k) = bytes[k]?) →
    let out := rleEncode bytes s.minseq.toNat s.xform
    ∃ t u, exec .rle s = .next t ∧ statusWord t = 1 ∧ exec .rle t = .next u ∧ statusWord u = 2 ∧ errcodeWord u = 0 ∧
      u.outlen.toNat = out.length ∧ (∀ k, k < out.length → u.mem.read (obufBase + k) = out[k]?) ∧
      (∀ a, ¬ inOutput out.length a → u.mem.read a = s.mem.read a) ∧
      u = { s with
        curOp := 1, done := true, err := false, errcode := 0, outlen := u.outlen, mem := u.mem, window := u.window,
        freeIdx := u.freeIdx }

/-- `DCTQ` from its launch to its result: with depth 8 and 64 written input bytes it ends with `STATUS = 2`, `OUTLEN = 16`, the level
`L[y][x] mod 256` in `OBUF[4y + x]`, and everything else as it was, whatever `XFORM`, `LEN` and `MINSEQ` hold. -/
def Obligations.DctqCommandQuantizesItsBlock : Prop :=
  ∀ (s : State) (bytes : List Byte), s.Inv → s.phase = .idle → s.bpp = 8 → bytes.length = 64 →
    (∀ k, k < 64 → s.mem.read (ibufBase + k) = bytes[k]?) →
    ∃ t u, exec .dctq s = .next t ∧ statusWord t = 1 ∧ exec .dctq t = .next u ∧ statusWord u = 2 ∧ errcodeWord u = 0 ∧
      u.outlen = 16 ∧
      (∀ y x : Fin 4, u.mem.read (obufBase + (4 * y.val + x.val)) = some (BitVec.ofInt 8 (level s.cfg bytes y x))) ∧
      (∀ a, ¬ inOutput 16 a → u.mem.read a = s.mem.read a) ∧
      u = { s with
        curOp := 2, done := true, err := false, errcode := 0, outlen := u.outlen, mem := u.mem, window := u.window,
        freeIdx := u.freeIdx }

/-- A command whose input holds a byte that was not written since reset runs all the same (log entry 7): no error, `OUTLEN` at most
`2 * LEN`, respectively 16, and nothing changes outside `OBUF[0 : OUTLEN]`, whatever the free values are. -/
def Obligations.UnwrittenInputLeavesOutputOpen : Prop :=
  (∀ s : State, s.Inv → s.phase = .idle → rleLegal s → (∃ k, k < s.len.toNat ∧ s.mem.read (ibufBase + k) = none) →
    ∃ t u, exec .rle s = .next t ∧ exec .rle t = .next u ∧ statusWord u = 2 ∧ u.outlen.toNat ≤ 2 * s.len.toNat ∧
      (∀ a, ¬ inOutput u.outlen.toNat a → u.mem.read a = s.mem.read a)) ∧
  (∀ s : State, s.Inv → s.phase = .idle → s.bpp = 8 → (∃ k, k < 64 ∧ s.mem.read (ibufBase + k) = none) →
    ∃ t u, exec .dctq s = .next t ∧ exec .dctq t = .next u ∧ statusWord u = 2 ∧ u.outlen = 16 ∧
      (∀ a, ¬ inOutput 16 a → u.mem.read a = s.mem.read a))

/-- R146: a reserved command word launches like a real command and ends in `UnsupportedConfiguration` with no output, whatever the
registers hold. -/
def Obligations.ReservedCommandEndsInError : Prop :=
  ∀ (s : State) (op : Word), s.Inv → s.phase = .idle → 4 ≤ op.toNat →
    ∃ t u, exec (.reservedCmd op) s = .next t ∧ statusWord t = 1 ∧ exec (.reservedCmd op) t = .next u ∧ statusWord u = 6 ∧
      errcodeWord u = 2 ∧
      u = { s with
        curOp := op, done := true, err := true, errcode := 2, outlen := 0, window := u.window, freeIdx := u.freeIdx }

/-- R164: the checks in their order, the first that fails deciding the code; and no error where all pass. -/
def Obligations.ChecksAreMadeInOrder : Prop :=
  ∀ s : State, s.phase = .busy → s.curOp ≠ 0 → s.curOp ≠ 3 → s.err = false → s.errcode = 0 →
    ∃ t, exec (decodeCmd s.curOp) s = .next t ∧
      (4 ≤ s.curOp.toNat → t.errcode = 2) ∧
      (s.curOp = 1 → s.bpp ≠ 1 → s.bpp ≠ 4 → t.errcode = 2) ∧
      (s.curOp = 2 → s.bpp ≠ 8 → t.errcode = 2) ∧
      (s.curOp = 1 → (s.bpp = 1 ∨ s.bpp = 4) → 4 ≤ s.xform.toNat → t.errcode = 2) ∧
      (s.curOp = 1 → (s.bpp = 1 ∨ s.bpp = 4) → s.xform.toNat < 4 → s.cfg.ibufSize < s.len.toNat → t.errcode = 1) ∧
      (s.curOp = 1 → (s.bpp = 1 ∨ s.bpp = 4) → s.xform.toNat < 4 → s.len = 0 → s.cfg.emptyInputFaults = true → t.errcode = 3) ∧
      (s.curOp = 1 → rleLegal s → t.errcode = 0 ∧ t.err = false) ∧
      (s.curOp = 2 → s.bpp = 8 → t.errcode = 0 ∧ t.err = false)

/-- R165: what an error changes: the report is set, the block is idle, `OUTLEN` is 0, and everything else, `OBUF` and `IBUF` among it, is
unchanged. -/
def Obligations.ErrorEntryChangesTheReportOnly : Prop :=
  ∀ (s : State) (e : ErrKind), s.Inv → s.phase = .busy → checks s.cfg s.curOp s.bpp s.xform s.len = some e →
    ∃ t, exec (decodeCmd s.curOp) s = .next t ∧ statusWord t = 6 ∧ t.outlen = 0 ∧ (e = .outOfRange → errcodeWord t = 1) ∧
      (e = .unsupportedConfiguration → errcodeWord t = 2) ∧ (e = .emptyInput → errcodeWord t = 3) ∧
      t = { s with errcode := t.errcode, err := true, done := true, phase := .idle }

/-- An error report stays until a command word other than `NOP` is written to `CMD` or the block is reset: no other step changes it. -/
def Obligations.ErrorReportStaysUntilCleared : Prop :=
  ∀ s t : State, s.Inv → s.err = true → step s = .next t → s.program.head? ≠ some .rst →
    (∀ v, v ≠ 0 → s.program.head? ≠ some (lineWr .cmd v)) → t.err = true ∧ t.done = true ∧ t.errcode = s.errcode ∧ t.outlen = 0

/-- A busy block completes after finitely many host events (R141): within the drawn number of steps and one more it is idle, or a host
access that is not admitted has been refused. -/
def Obligations.BusyBlockCompletes : Prop :=
  ∀ s : State, s.Inv → s.phase = .busy → ∃ k, k ≤ s.window + 1 ∧
    ((∃ t, Sys2Proof.core.run k s = .next t ∧ t.phase = .idle) ∨ ∃ r, Sys2Proof.core.run k s = .refused r)

/-- The result of a command depends on its declared inputs only: two busy states that agree on the parameters, the configuration and the
written input bytes a command reads end with the same report and the same output, whatever else they hold. -/
def Obligations.ResultDependsOnDeclaredInputsOnly : Prop :=
  ∀ (s t : State) (op : Word) (n : Nat) (bytes : List Byte), (op = 1 ∧ n = s.len.toNat ∨ op = 2 ∧ n = 64) →
    s.phase = .busy → t.phase = .busy → s.curOp = op → t.curOp = op → s.cfg = t.cfg → s.bpp = t.bpp →
    (op = 1 → s.minseq = t.minseq ∧ s.xform = t.xform ∧ s.len = t.len) →
    s.err = t.err → s.errcode = t.errcode → s.outlen = t.outlen → bytes.length = n →
    (∀ k, k < n → s.mem.read (ibufBase + k) = bytes[k]? ∧ t.mem.read (ibufBase + k) = bytes[k]?) →
    ∃ s' t', exec (decodeCmd op) s = .next s' ∧ exec (decodeCmd op) t = .next t' ∧ statusWord s' = statusWord t' ∧
      s'.errcode = t'.errcode ∧ s'.outlen = t'.outlen ∧
      (checks s.cfg op s.bpp s.xform s.len = none →
        ∀ k, k < s'.outlen.toNat → s'.mem.read (obufBase + k) = t'.mem.read (obufBase + k))

/-! ### Register values and accesses (44_commands.md R147 to R149, 20_memory.md) -/

/-- The five transform tags and the three depths: while `IDLE` the register takes the value and nothing else changes; while `BUSY` the write
is dropped. -/
def Obligations.TagsAndDepthsAreWritten : Prop :=
  ∀ s : State,
    (s.phase = .idle →
      exec .xformNone s = .next { s with xform := 0 } ∧ exec .xformRevbits s = .next { s with xform := 1 } ∧
      exec .xformRevnib s = .next { s with xform := 2 } ∧ exec .xformRevend s = .next { s with xform := 3 } ∧
      (∀ tag, exec (.xformReserved tag) s = .next { s with xform := tag }) ∧
      exec .bpp1 s = .next { s with bpp := 1 } ∧ exec .bpp4 s = .next { s with bpp := 4 } ∧
      exec .bpp8 s = .next { s with bpp := 8 }) ∧
    (s.phase = .busy → ∀ i : Instr, i.place = .xform ∨ i.place = .bpp → exec i s = .next s)

/-- The four error codes and the four `STATUS` values: the read returns `ERRCODE`, respectively `STATUS`, bit by bit, tells whether it is the
row's value (the model's own `readMatch`, log entry 2), and changes nothing of the block. -/
def Obligations.CodesAndStatusValuesAreRead : Prop :=
  (∀ (s : State) (i : Instr) (code : Nat),
    (i = .errNone ∧ code = 0 ∨ i = .errOutOfRange ∧ code = 1 ∨ i = .errUnsupportedConfiguration ∧ code = 2 ∨
      i = .errEmptyInput ∧ code = 3) →
    ∃ t, exec i s = .next t ∧ t.readData.toNat = s.errcode.toNat ∧ (t.readMatch = true ↔ s.errcode.toNat = code) ∧
      blockPart t = blockPart s) ∧
  (∀ (s : State) (i : Instr) (value : Word),
    (i = .statusIdleNothingFinished ∧ value = 0 ∨ i = .statusBusy ∧ value = 1 ∨ i = .statusDoneOk ∧ value = 2 ∨
      i = .statusDoneError ∧ value = 6) →
    ∃ t, exec i s = .next t ∧ (t.readData.getLsbD 0 = true ↔ s.phase = .busy) ∧ t.readData.getLsbD 1 = s.done ∧
      t.readData.getLsbD 2 = s.err ∧ (∀ j, 3 ≤ j → t.readData.getLsbD j = false) ∧
      (t.readMatch = true ↔ t.readData = value) ∧ blockPart t = blockPart s)

/-- R147: what a 32-bit read of each register and of every reserved offset below 0x10000 returns; no state of the block changes. -/
def Obligations.RegisterReadsReturn : Prop :=
  ∀ s : State,
    (∀ r, ∃ t, access (.read .word (regOffset r)) s = .next t ∧ blockPart t = blockPart s ∧
      (r = .cmd → t.readData = 0) ∧ (r = .status → t.readData = statusWord s) ∧ (r = .errcode → t.readData = errcodeWord s) ∧
      (r = .bpp → t.readData = s.bpp) ∧ (r = .minseq → t.readData = s.minseq) ∧ (r = .xform → t.readData = s.xform) ∧
      (r = .len → t.readData = s.len) ∧ (r = .outlen → s.phase = .idle → t.readData = s.outlen) ∧
      (∀ i, r = .qm i → t.readData = s.cfg.qmatrix[i])) ∧
    (∀ off : BitVec 18, off.toNat % 4 = 0 →
      (0x20 ≤ off.toNat ∧ off.toNat < 0x40 ∨ 0x80 ≤ off.toNat ∧ off.toNat < 0x10000) →
      access (.read .word off) s = .next { s with readData := 0 })

/-- R148: what a 32-bit write of each register and of every reserved offset below 0x10000 does. A write to `CMD` is R140, stated in
`CmdWriteLaunches`. -/
def Obligations.RegisterWritesStore : Prop :=
  ∀ (s : State) (v : Word),
    (s.phase = .idle →
      access (.write .word 0x0000C v) s = .next { s with bpp := v } ∧ access (.write .word 0x00010 v) s = .next { s with minseq := v } ∧
      access (.write .word 0x00014 v) s = .next { s with xform := v } ∧ access (.write .word 0x00018 v) s = .next { s with len := v }) ∧
    (s.phase = .busy →
      access (.write .word 0x0000C v) s = .next s ∧ access (.write .word 0x00010 v) s = .next s ∧
      access (.write .word 0x00014 v) s = .next s ∧ access (.write .word 0x00018 v) s = .next s) ∧
    access (.write .word 0x00000 v) s = .next (launch v s) ∧
    access (.write .word 0x00004 v) s = .next s ∧ access (.write .word 0x00008 v) s = .next s ∧
    access (.write .word 0x0001C v) s = .next s ∧
    (∀ off : BitVec 18, off.toNat % 4 = 0 →
      (0x20 ≤ off.toNat ∧ off.toNat < 0x80 ∨ 0x80 ≤ off.toNat ∧ off.toNat < 0x10000) → access (.write .word off v) s = .next s)

/-- R149 for `IBUF`: a byte, or four bytes little-endian, are stored while `IDLE` and read back; the write is dropped while `BUSY`; no other
byte and no register changes. -/
def Obligations.InputBufferAccesses : Prop :=
  ∀ (s : State) (off : BitVec 18) (v : Word), ibufBase ≤ off.toNat → off.toNat < ibufBase + s.cfg.ibufSize →
    Config.wellFormed s.cfg = true →
    (s.phase = .busy → access (.write .byte off v) s = .next s ∧ (off.toNat % 4 = 0 → access (.write .word off v) s = .next s)) ∧
    (s.phase = .idle →
      (∃ t u, access (.write .byte off v) s = .next t ∧ t = { s with mem := t.mem } ∧
        t.mem.read off.toNat = some (v.setWidth 8) ∧ (∀ a, a ≠ off.toNat → t.mem.read a = s.mem.read a) ∧
        access (.read .byte off) t = .next u ∧ u.readData = v &&& 0xFF ∧ blockPart u = blockPart t) ∧
      (off.toNat % 4 = 0 →
        ∃ t u, access (.write .word off v) s = .next t ∧ t = { s with mem := t.mem } ∧
          (∀ k, k < 4 → t.mem.read (off.toNat + k) = some (v.extractLsb' (8 * k) 8)) ∧
          (∀ a, (a < off.toNat ∨ off.toNat + 4 ≤ a) → t.mem.read a = s.mem.read a) ∧
          access (.read .word off) t = .next u ∧ u.readData = v ∧ blockPart u = blockPart t))

/-- R149 for `OBUF`: a host write is ignored in either phase; while `IDLE` a read returns the stored bytes. R42: byte `a + k` of the buffer is
bits `[8k, 8k + 8)` of the word at `a`. -/
def Obligations.OutputBufferAccesses : Prop :=
  ∀ (s : State) (off : BitVec 18) (v : Word), obufBase ≤ off.toNat → off.toNat < obufBase + obufSize s.cfg →
    Config.wellFormed s.cfg = true →
    access (.write .byte off v) s = .next s ∧ (off.toNat % 4 = 0 → access (.write .word off v) s = .next s) ∧
    (s.phase = .idle → ∀ b, s.mem.read off.toNat = some b →
      ∃ t, access (.read .byte off) s = .next t ∧ t.readData.toNat = b.toNat ∧ blockPart t = blockPart s) ∧
    (s.phase = .idle → off.toNat % 4 = 0 → ∀ b0 b1 b2 b3, s.mem.read off.toNat = some b0 → s.mem.read (off.toNat + 1) = some b1 →
      s.mem.read (off.toNat + 2) = some b2 → s.mem.read (off.toNat + 3) = some b3 →
      ∃ t, access (.read .word off) s = .next t ∧
        t.readData.toNat = b0.toNat + 256 * b1.toNat + 65536 * b2.toNat + 16777216 * b3.toNat ∧ blockPart t = blockPart s)

/-- The reserved tails of the buffer windows: reads return 0, writes are ignored, for the 32-bit and the 8-bit accesses (the 8-bit ones by
log entry 13). -/
def Obligations.ReservedTailsReadZero : Prop :=
  ∀ (s : State) (off : BitVec 18) (w : Width) (v : Word), Config.wellFormed s.cfg = true →
    (w = .byte ∨ w = .word ∧ off.toNat % 4 = 0) →
    (ibufBase + s.cfg.ibufSize ≤ off.toNat ∧ off.toNat < obufBase ∨ obufBase + obufSize s.cfg ≤ off.toNat) →
    access (.read w off) s = .next { s with readData := 0 } ∧ access (.write w off v) s = .next s

/-- R43: an access that is not admitted is refused: 16 bits anywhere, 32 bits at an offset that is no multiple of 4, 8 bits to a
register. Those R43 names are admitted: 32 bits at multiples of 4, 8 bits inside the windows. -/
def Obligations.UnadmittedAccessIsRefused : Prop :=
  ∀ (s : State) (w : Width) (off : BitVec 18) (v : Word),
    ((w = .half ∨ w = .word ∧ off.toNat % 4 ≠ 0 ∨ w = .byte ∧ off.toNat < 0x10000) →
      access (.read w off) s = .refused .notAdmitted ∧ access (.write w off v) s = .refused .notAdmitted) ∧
    ((w = .word ∧ off.toNat % 4 = 0 ∨ w = .byte ∧ inBuffers s.cfg off.toNat) →
      (∃ t, access (.read w off) s = .next t) ∧ ∃ t, access (.write w off v) s = .next t)

/-- R44: every read that is admitted leaves the whole block as it was. -/
def Obligations.ReadsHaveNoSideEffect : Prop :=
  ∀ (s : State) (w : Width) (off : BitVec 18), admitted w off.toNat = true →
    ∃ t, access (.read w off) s = .next t ∧ blockPart t = blockPart s ∧ t.program = s.program ∧ t.consumer = s.consumer

/-- While the block is `BUSY` every admitted write, wherever it goes, changes nothing, `STATUS` reads 1 and `ERRCODE` reads 0. -/
def Obligations.BusyWindowDropsEveryWrite : Prop :=
  ∀ (s : State) (w : Width) (off : BitVec 18) (v : Word), s.Inv → s.phase = .busy →
    (admitted w off.toNat = true → access (.write w off v) s = .next s) ∧ statusWord s = 1 ∧ errcodeWord s = 0

/-! ### Reset and invariants (10_state.md R13, R27, 70_reset_and_hazards.md R180) -/

/-- From R180: asserting reset, in any phase, puts the block into the values of R27 with no byte of the buffers stored; the parameters stay;
and the block does nothing on its own afterwards. The model's choices in it: the premise that no completion step is due, since a due one
goes before the reset (log entry 9); that the host's program stays (log entry 11); that a machine with nothing to do answers the same state
(log entry 12). -/
def Obligations.ResetInputRestoresResetValues : Prop :=
  ∀ (s : State) (rest : List Event), Config.wellFormed s.cfg = true → completionDue s = false → s.program = .rst :: rest →
    ∃ t, step s = .next t ∧ statusWord t = 0 ∧ errcodeWord t = 0 ∧ t.phase = .idle ∧ t.bpp = 0 ∧ t.minseq = 0 ∧ t.xform = 0 ∧
      t.len = 0 ∧ t.outlen = 0 ∧ (∀ a, t.mem.read a = none) ∧ t.cfg = s.cfg ∧ t.program = rest ∧
      (rest = [] → step t = .next t)

/-- The state right after reset has the values the spec gives and satisfies the invariant. -/
def Obligations.ResetStateHasTheInvariant : Prop :=
  State.reset.Inv ∧ statusWord State.reset = 0 ∧ errcodeWord State.reset = 0 ∧ State.reset.bpp = 0 ∧ State.reset.minseq = 0 ∧
    State.reset.xform = 0 ∧ State.reset.len = 0 ∧ State.reset.outlen = 0

/-- Every step keeps the invariant, from every state that has it. -/
def Obligations.StepKeepsTheInvariant : Prop := ∀ s t : State, s.Inv → step s = .next t → t.Inv

/-- Every row of the opcode table keeps the invariant and the parameters, from every state that has it. -/
def Obligations.EveryRowKeepsTheInvariant : Prop :=
  ∀ (i : Instr) (s : State), s.Inv → ∃ t, exec i s = .next t ∧ t.Inv ∧ t.cfg = s.cfg

/-- R20: the table `QM` reads as the matrix, ignores writes, and no step changes it, a reset among them. -/
def Obligations.QmTableIsConstant : Prop :=
  (∀ (s : State) (y x : Fin 4) (v : Word),
    (∃ t, access (.read .word (BitVec.ofNat 18 (0x40 + 4 * (4 * y.val + x.val)))) s = .next t ∧
      t.readData.toNat = weight s.cfg y x) ∧
    access (.write .word (BitVec.ofNat 18 (0x40 + 4 * (4 * y.val + x.val))) v) s = .next s) ∧
  (∀ s t : State, step s = .next t → t.cfg.qmatrix = s.cfg.qmatrix)

/-- Who changes the buffers: no row of the table changes a byte of `IBUF`, and a byte of `OBUF` changes only in a completion step or at a
reset. -/
def Obligations.BuffersChangeOnlyAsSpecified : Prop :=
  (∀ (i : Instr) (s : State), ∃ t, exec i s = .next t ∧ ∀ a, a < obufBase → t.mem.read a = s.mem.read a) ∧
  (∀ s t : State, s.Inv → step s = .next t → completionDue s = false → s.program.head? ≠ some .rst →
    ∀ a, obufBase ≤ a → t.mem.read a = s.mem.read a)

/-- The phase goes from `IDLE` to `BUSY` only by a write to `CMD` of a word other than 0 and 3, and back only by the completion step or a
reset. -/
def Obligations.PhaseChangesOnlyByLaunchCompletionOrReset : Prop :=
  ∀ s t : State, step s = .next t →
    (s.phase = .idle → t.phase = .busy → ∃ v, v ≠ 0 ∧ v ≠ 3 ∧ s.program.head? = some (lineWr .cmd v)) ∧
    (s.phase = .busy → t.phase = .idle → completionDue s = true ∨ s.program.head? = some .rst)

/-! ### Bit operations (40_bitops.md) -/

/-- R81: `get_bit` returns the bit by the MSB-first index, and `OutOfRange` past the end. -/
def Obligations.GetBitReadsMsbFirst : Prop :=
  ∀ (data : List Byte) (i : Nat),
    (8 * data.length ≤ i → getBit data i = .error .outOfRange) ∧
    (i < 8 * data.length → ∃ b, data[i / 8]? = some b ∧ getBit data i = .ok (b.toNat / 2 ^ (7 - i % 8) % 2))

/-- R82, R83, R84: the three reversals keep the length, for any length, and reverse the group's bit, byte and nibble sequence. -/
def Obligations.ReversalsReverseTheirSequence : Prop :=
  ∀ g : List Byte,
    ((reverseBits g).length = g.length ∧ (reverseEndianness g).length = g.length ∧ (reverseNibbles g).length = g.length) ∧
    (∀ j, j < 8 * g.length → getBit (reverseBits g) j = getBit g (8 * g.length - 1 - j)) ∧
    (∀ k, k < g.length → (reverseEndianness g)[k]? = g[g.length - 1 - k]?) ∧
    (∀ j, j < 2 * g.length → groupNibble (reverseNibbles g) j = groupNibble g (2 * g.length - 1 - j))

/-- What the spec derives from those: the three reversals are self-inverse (R85), and equivalently the bytes are reversed and each has its bits
reversed, is kept, or has its nibbles changed over. -/
def Obligations.ReversalsAreSelfInverse : Prop :=
  ∀ g : List Byte,
    (reverseBits (reverseBits g) = g ∧ reverseNibbles (reverseNibbles g) = g ∧ reverseEndianness (reverseEndianness g) = g) ∧
    reverseBits g = g.reverse.map rev8 ∧ reverseNibbles g = g.reverse.map swap4

/-- R86: the per-byte transform by tag, the one-byte case of the group operations; an unknown tag is `UnsupportedConfiguration`; every legal
tag is its own inverse. -/
def Obligations.TransformByTag : Prop :=
  ∀ (tag : Word) (b : Byte),
    xf 0 b = .ok b ∧ (∃ c, xf 1 b = .ok c ∧ reverseBits [b] = [c] ∧ ∀ t, t < 8 → c.getLsbD t = b.getLsbD (7 - t)) ∧
    (∃ c, xf 2 b = .ok c ∧ reverseNibbles [b] = [c] ∧ c.toNat = b.toNat % 16 * 16 + b.toNat / 16) ∧
    (xf 3 b = .ok b ∧ reverseEndianness [b] = [b]) ∧ (4 ≤ tag.toNat → xf tag b = .error .unsupportedConfiguration) ∧
    (tag.toNat < 4 → xfByte tag (xfByte tag b) = b)

/-! ### RLE (41_rle.md) -/

/-- The properties the spec derives from R91 (its "Properties [derived: from this rule]"): the runs are non-empty and maximal, expand to the
input in order, and their counts add up to its length. -/
def Obligations.RunLengthsAreTheMaximalRuns : Prop :=
  ∀ s : List Byte, (∀ p ∈ runLengths s, 1 ≤ p.1) ∧
    (∀ k p q, (runLengths s)[k]? = some p → (runLengths s)[k + 1]? = some q → p.2 ≠ q.2) ∧
    (runLengths s).flatMap (fun p => List.replicate p.1 p.2) = s ∧ ((runLengths s).map Prod.fst).sum = s.length

/-- R94, with R93's corner cases: the tokens expand to the input; every repeat is longer than `m`; a sequence is not empty and holds no run
longer than `m`; a token begins with another byte than the one before it ended with; no two sequences are neighbours. -/
def Obligations.TokensPartitionTheInput : Prop :=
  ∀ (s : List Byte) (m : Nat),
    let tokens := tokenize (runLengths s) m
    tokens.flatMap expandToken = s ∧ (∀ count value, .rept count value ∈ tokens → m < count) ∧
    (∀ values, .seq values ∈ tokens → values ≠ [] ∧ ∀ p ∈ runLengths values, p.1 ≤ m) ∧
    (∀ k a b, tokens[k]? = some a → tokens[k + 1]? = some b → (expandToken a).getLast? ≠ (expandToken b).head?) ∧
    (∀ k v w, ¬ (tokens[k]? = some (.seq v) ∧ tokens[k + 1]? = some (.seq w)))

/-- R95: a repeat token is cut into records of 128, the remainder last; each is `0x80 | (chunk_len - 1)` and the transformed value. -/
def Obligations.RepeatTokenIsChunked : Prop :=
  ∀ (f : Byte → Byte) (count : Nat) (value : Byte), 1 ≤ count →
    (count ≤ 128 → serRepeat f count value = [BitVec.ofNat 8 (0x80 + (count - 1)), f value]) ∧
    (128 < count → serRepeat f count value = 0xFF :: f value :: serRepeat f (count - 128) value) ∧
    (serRepeat f count value).length = 2 * ((count + 127) / 128)

/-- R96: a sequence token is cut into records of 128, the remainder last; each is `chunk_len - 1` and the transformed values in order. -/
def Obligations.SequenceTokenIsChunked : Prop :=
  ∀ (f : Byte → Byte) (values : List Byte), values ≠ [] →
    (values.length ≤ 128 → serSequence f values = BitVec.ofNat 8 (values.length - 1) :: values.map f) ∧
    (128 < values.length → serSequence f values = 0x7F :: ((values.take 128).map f ++ serSequence f (values.drop 128))) ∧
    (serSequence f values).length = values.length + (values.length + 127) / 128

/-- R102: decoding the encoded stream gives the transformed input, and transforming that again gives the input, the empty one included. -/
def Obligations.RleRoundTrip : Prop :=
  ∀ (s : List Byte) (m : Nat) (tag : Word), tag.toNat < 4 →
    rleDecode (rleEncode s m tag) = some (s.map (xfByte tag)) ∧
    (rleDecode (rleEncode s m tag)).map (List.map (xfByte tag)) = some s

/-- R103: the length of the stream: from 2 to `2n` for `n` input bytes, the cost of each token, both bounds reached; so the output of a
command always fits in `OBUF`. -/
def Obligations.RleOutputLengthBounds : Prop :=
  ∀ (s : List Byte) (m : Nat) (tag : Word), s ≠ [] →
    2 ≤ (rleEncode s m tag).length ∧ (rleEncode s m tag).length ≤ 2 * s.length ∧
    (∀ p : Params, s.length ≤ p.ibufSize → (rleEncode s m tag).length ≤ obufSize p) ∧
    (m = 0 → (∀ k a b, s[k]? = some a → s[k + 1]? = some b → a ≠ b) → (rleEncode s m tag).length = 2 * s.length) ∧
    (∀ v, s = List.replicate s.length v → s.length ≤ 128 → m < s.length → (rleEncode s m tag).length = 2)

/-- R68: what the encoder writes is a plain concatenation of well-formed records of the table, nothing before, between or after them, and
the records expand to the transformed input. -/
def Obligations.StreamIsAConcatenationOfRecords : Prop :=
  ∀ (s : List Byte) (m : Nat) (tag : Word), ∃ records : List Instr,
    (∀ i ∈ records, i.wf = true ∧ i.place = .hdr) ∧ records.flatMap encode = rleEncode s m tag ∧
    records.flatMap recordExpansion = s.map (xfByte tag)

/-- The rows the consumer meets: a record appends its expansion to the decoder's output and moves past its 2, or 1 plus `chunk_len`, bytes; a
packed word is read and its four lanes are sign-extended, column 0 first. Nothing of the block changes (the reference consumer, log entry
3). -/
def Obligations.StreamRowsFeedTheConsumer : Prop :=
  ∀ s : State,
    (∀ (lm1 : BitVec 7) (value : Byte), exec (.repeatRecord lm1 value) s = .next { s with
      consumer := { s.consumer with
        out := s.consumer.out ++ List.replicate (lm1.toNat + 1) value, pos := s.consumer.pos + 2 } }) ∧
    (∀ (lm1 : BitVec 7) (values : List Byte), (Instr.sequenceRecord lm1 values).wf = true →
      exec (.sequenceRecord lm1 values) s = .next { s with
        consumer := { s.consumer with
          out := s.consumer.out ++ values, pos := s.consumer.pos + (1 + (lm1.toNat + 1)) } }) ∧
    (∀ q0 q1 q2 q3 : Byte, exec (.qword q0 q1 q2 q3) s = .next { s with
      readData := q3 ++ q2 ++ q1 ++ q0,
      consumer := { s.consumer with levels := s.consumer.levels ++ [q0.toInt, q1.toInt, q2.toInt, q3.toInt] } })

/-- The consumer's record events, one a step, compute `rle_decode` of the emitted array, failure included (R101; that the consumer stands in
the state is the model's choice, log entry 3). -/
def Obligations.ConsumerRunIsTheReferenceDecoder : Prop :=
  ∀ (s : State) (n : Nat), Config.wellFormed s.cfg = true → s.phase = .idle → s.program = List.replicate n .record →
    s.consumer.array.length ≤ n → s.consumer.pos = 0 → s.consumer.out = [] → s.consumer.failed = false →
    ∃ t, Sys2Proof.core.run n s = .next t ∧ blockPart t = blockPart s ∧
      (∀ out, rleDecode s.consumer.array = some out → t.consumer.out = out ∧ t.consumer.failed = false) ∧
      (rleDecode s.consumer.array = none → t.consumer.failed = true)

/-! ### DCT (42_dct.md) -/

/-- R112: the one-dimensional inverse undoes the forward transform, for every size. -/
def Obligations.InverseDctUndoesDct : Prop := ∀ (N : Nat) (x : Fin N → ℝ), idct (dct x) = x

/-- What the spec derives from R110 in R113: the formula of the two-dimensional transform is the one-dimensional transform over the first
index and then over the second, in either order. -/
def Obligations.Dct2dIsSeparable : Prop :=
  ∀ (N : Nat) (M : Fin N → Fin N → ℝ) (u v : Fin N),
    dct2d M u v = dct (fun c => dct (fun r => M r c) u) v ∧ dct2d M u v = dct (fun r => dct (fun c => M r c) v) u

/-- R115: the two-dimensional inverse undoes the forward transform on the full matrix, for every size. -/
def Obligations.InverseDct2dUndoesDct2d : Prop := ∀ (N : Nat) (M : Fin N → Fin N → ℝ), idct2d (dct2d M) = M

/-- R118: the kept coefficients are those of the two-dimensional transform of the centred block; a uniform block has the DC coefficient
only; the DC coefficient is an eighth of the sum of the samples. -/
def Obligations.CoefficientsAreTruncatedDct2d : Prop :=
  ∀ (P : List Byte) (u v : Fin 4),
    coef P u.val v.val =
      dct2d (fun r c : Fin 8 => (sample P r.val c.val : ℝ)) ⟨u.val, by omega⟩ ⟨v.val, by omega⟩ ∧
    coef P 0 0 = (∑ r : Fin 8, ∑ c : Fin 8, (sample P r.val c.val : ℝ)) / 8 ∧
    (∀ b : Byte, P = List.replicate 64 b →
      coef P 0 0 = 8 * ((b.toNat : ℝ) - 128) ∧ ((u ≠ 0 ∨ v ≠ 0) → coef P u.val v.val = 0))

/-! ### Quantizer (43_quantizer.md) -/

/-- R126: rounding to nearest with ties away from zero, and odd. -/
def Obligations.RoundingIsHalfAwayFromZero : Prop :=
  ∀ t : ℝ, (0 ≤ t → roundHaz t = ⌊t + 1 / 2⌋) ∧ (t < 0 → roundHaz t = -⌊-t + 1 / 2⌋) ∧ roundHaz (-t) = -roundHaz t ∧
    abs ((roundHaz t : ℝ) - t) ≤ 1 / 2 ∧
    (∀ k : Nat, roundHaz ((k : ℝ) + 1 / 2) = (k : Int) + 1 ∧ roundHaz (-((k : ℝ) + 1 / 2)) = -((k : Int) + 1))

/-- R127: the level the machine computes by integers is `round_haz` of the exact real quotient, for every block and every matrix of positive
weights. -/
def Obligations.LevelIsTheRoundedRealQuotient : Prop :=
  ∀ (p : Params) (P : List Byte), Config.wellFormed p = true →
    ∀ y x : Fin 4, level p P y x = roundHaz (coef P y.val x.val / (weight p y x : ℝ)) ∧
      level p P y x = quantize p (fun u v : Fin 4 => coef P u.val v.val) y x

/-- R128, R130: narrowing is `mod 256`, with no clamp; unpacking is the sign extension of the lane, and gives the level back exactly when it
was in -128 to 127. -/
def Obligations.NarrowingWrapsAndUnpackingSignExtends : Prop :=
  (∀ l : Int, ((lane l).toNat : Int) = l % 256 ∧ (laneLevel (lane l) = l ↔ -128 ≤ l ∧ l ≤ 127)) ∧
  (∀ (w : Word) (x : Fin 4), unpackWord w x = (w.extractLsb' (8 * x.val) 8).toInt) ∧
  (∀ (L : LevelBlock) (y x : Fin 4), unpackWord (packRow L y) x = L y x ↔ -128 ≤ L y x ∧ L y x ≤ 127)

/-- R129: column `x` of row `y` is in bits `[8x, 8x + 8)` of word `y`, and a 32-bit read of `OBUF` at `4y` after the packed bytes are written
returns word `y`. -/
def Obligations.PackedRowsReadBackAsWords : Prop :=
  ∀ (L : LevelBlock) (y x : Fin 4),
    (packRow L y).toNat / 256 ^ x.val % 256 = (lane (L y x)).toNat ∧ (pack L)[y.val]? = some (packRow L y) ∧
    (∀ s : State, s.phase = .idle → 64 ≤ s.cfg.ibufSize →
      ∃ t, access (.read .word (BitVec.ofNat 18 (0x20000 + 4 * y.val))) (writeOutput (wordBytes (pack L)) s) = .next t ∧
        t.readData = packRow L y)

/-- R132: quantizing, packing, unpacking and dequantizing whole multiples of the weights recovers the levels and the block. -/
def Obligations.QuantizerRoundTrip : Prop :=
  ∀ (p : Params) (l : LevelBlock), Config.wellFormed p = true → (∀ y x, -128 ≤ l y x ∧ l y x ≤ 127) →
    let F : Fin 4 → Fin 4 → ℝ := fun y x => (l y x : ℝ) * (weight p y x : ℝ)
    quantize p F = l ∧ (fun y x => unpackWord (packRow (quantize p F) y) x) = l ∧
    (fun y x => ((dequantize p (fun b a => unpackWord (packRow (quantize p F) b) a) y x : Int) : ℝ)) = F

/-- With the default matrix no level leaves the byte range, so narrowing never wraps. -/
def Obligations.DefaultMatrixNeverWraps : Prop :=
  ∀ (P : List Byte) (y x : Fin 4), -128 ≤ level Config.defaults P y x ∧ level Config.defaults P y x ≤ 127
end

