-- ==== Sys2Proof/Laws/Memory.lean ====
section
/-! SUPPORT. The laws of the memory: reading after writing, and that every operation keeps the canonical form. -/

namespace Sys2Proof.Machine

/-- Every offset of the memory is above `a`. -/
theorem memory_wf_cons (c : Host.Cell) (m : Memory) :
    Memory.wf (c :: m) = true ↔ (∀ d ∈ m, c.1 < d.1) ∧ Memory.wf m = true := by
  simp [Memory.wf, List.all_eq_true]

theorem memory_read_write_same (m : Memory) (a : Nat) (v : Byte) : (m.write a v).read a = some v := by
  induction m with
  | nil => simp [Memory.write, Memory.read]
  | cons c m ih =>
    simp only [Memory.write]
    split
    · simp [Memory.read]
    · split
      · simp [Memory.read]
      · simp [Memory.read, *]

theorem memory_read_write_other (m : Memory) (a b : Nat) (v : Byte) (h : b ≠ a) : (m.write a v).read b = m.read b := by
  induction m with
  | nil => simp [Memory.write, Memory.read, h]
  | cons c m ih =>
    simp only [Memory.write]
    split
    · simp [Memory.read, h]
    · split
      · rename_i h1 h2
        have : b ≠ c.1 := fun e => h (e.trans h2.symm)
        simp [Memory.read, h, this]
      · simp [Memory.read, ih]

/-- What a write lists: the written offset, or what was listed before. -/
theorem memory_mem_write (m : Memory) (a : Nat) (v : Byte) (d : Host.Cell) (h : d ∈ m.write a v) : d.1 = a ∨ d ∈ m := by
  induction m with
  | nil => simp [Memory.write] at h; simp [h]
  | cons c m ih =>
    simp only [Memory.write] at h
    split at h
    · rcases List.mem_cons.1 h with rfl | h
      · exact .inl rfl
      · exact .inr h
    · split at h
      · rcases List.mem_cons.1 h with rfl | h
        · exact .inl rfl
        · exact .inr (List.mem_cons_of_mem _ h)
      · rcases List.mem_cons.1 h with rfl | h
        · exact .inr List.mem_cons_self
        · exact (ih h).imp id (List.mem_cons_of_mem _)

theorem memory_write_wf (m : Memory) (a : Nat) (v : Byte) (h : m.wf = true) : (m.write a v).wf = true := by
  induction m with
  | nil => simp [Memory.write, Memory.wf]
  | cons c m ih =>
    obtain ⟨hc, hm⟩ := (memory_wf_cons c m).1 h
    simp only [Memory.write]
    split
    · rename_i hlt
      refine (memory_wf_cons _ _).2 ⟨fun d hd => ?_, h⟩
      rcases List.mem_cons.1 hd with rfl | hd
      · exact hlt
      · exact Nat.lt_trans hlt (hc d hd)
    · split
      · rename_i heq
        exact (memory_wf_cons _ _).2 ⟨fun d hd => heq ▸ hc d hd, hm⟩
      · rename_i h1 h2
        refine (memory_wf_cons _ _).2 ⟨fun d hd => ?_, ih hm⟩
        rcases memory_mem_write m a v d hd with e | hd
        · omega
        · exact hc d hd

theorem memory_writeBytes_wf (bs : List Byte) : ∀ (m : Memory) (a : Nat), m.wf = true → (m.writeBytes a bs).wf = true := by
  induction bs with
  | nil => exact fun m a h => h
  | cons b bs ih => exact fun m a h => ih _ _ (memory_write_wf m a b h)

/-- A block of writes leaves every offset outside it alone. -/
theorem memory_read_writeBytes_outside (bs : List Byte) : ∀ (m : Memory) (a b : Nat),
    (b < a ∨ a + bs.length ≤ b) → (m.writeBytes a bs).read b = m.read b := by
  induction bs with
  | nil => exact fun m a b _ => rfl
  | cons x bs ih =>
    intro m a b h
    simp only [List.length_cons] at h
    rw [Memory.writeBytes, ih _ _ _ (by omega), memory_read_write_other _ _ _ _ (by omega)]

/-- A block of writes stores its bytes in order. -/
theorem memory_read_writeBytes_inside (bs : List Byte) : ∀ (m : Memory) (a k : Nat), k < bs.length →
    (m.writeBytes a bs).read (a + k) = bs[k]? := by
  induction bs with
  | nil => exact fun m a k h => absurd h (Nat.not_lt_zero k)
  | cons x bs ih =>
    intro m a k h
    cases k with
    | zero =>
      rw [Memory.writeBytes, memory_read_writeBytes_outside _ _ _ _ (by omega)]
      simpa using memory_read_write_same m a x
    | succ k =>
      rw [Memory.writeBytes, show a + (k + 1) = (a + 1) + k by omega, ih _ _ _ (by simpa using h)]
      simp

/-- What a block of writes lists: offsets of the block, or what was listed before. -/
theorem memory_mem_writeBytes (bs : List Byte) : ∀ (m : Memory) (a : Nat) (d : Host.Cell), d ∈ m.writeBytes a bs →
    (a ≤ d.1 ∧ d.1 < a + bs.length) ∨ d ∈ m := by
  induction bs with
  | nil => exact fun m a d h => .inr h
  | cons x bs ih =>
    intro m a d h
    rcases ih _ _ _ h with h | h
    · simp only [List.length_cons]; omega
    · rcases memory_mem_write _ _ _ _ h with h | h
      · simp only [List.length_cons]; omega
      · exact .inr h

/-- `readBytes` answers `bs` exactly when every byte of the range holds its byte of `bs`. -/
theorem memory_readBytes_eq_some (m : Memory) (n : Nat) : ∀ (a : Nat) (bs : List Byte),
    m.readBytes a n = some bs ↔ bs.length = n ∧ ∀ k, k < n → m.read (a + k) = bs[k]? := by
  induction n with
  | zero =>
    intro a bs
    simp [Memory.readBytes, eq_comm (a := []), List.length_eq_zero_iff]
  | succ n ih =>
    intro a bs
    cases bs with
    | nil =>
      simp only [Memory.readBytes]
      split <;> simp
    | cons b bs =>
      have key : (∀ k, k < n + 1 → m.read (a + k) = (b :: bs)[k]?) ↔
          m.read a = some b ∧ ∀ k, k < n → m.read (a + 1 + k) = bs[k]? := by
        constructor
        · intro h
          refine ⟨by simpa using h 0 (by omega), fun k hk => ?_⟩
          have := h (k + 1) (by omega)
          rw [show a + 1 + k = a + (k + 1) by omega, this]
          simp
        · rintro ⟨h0, h⟩ k hk
          cases k with
          | zero => simpa using h0
          | succ k =>
            rw [show a + (k + 1) = a + 1 + k by omega, h k (by omega)]
            simp
      rw [key]
      simp only [Memory.readBytes, List.length_cons, Nat.add_right_cancel_iff]
      cases h1 : m.read a with
      | none => simp
      | some c =>
        cases h2 : m.readBytes (a + 1) n with
        | none =>
          have := ih (a + 1) bs
          rw [h2] at this
          simp only [reduceCtorEq, false_iff] at this ⊢
          tauto
        | some cs =>
          have := ih (a + 1) bs
          rw [h2] at this
          simp only [Option.some.injEq, List.cons.injEq] at this ⊢
          rw [this]
          tauto

/-- `n` free bytes are `n` bytes. -/
@[simp] theorem freeBytes_length (n : Nat) : ∀ i, (freeBytes i n).length = n := by
  induction n with
  | zero => exact fun i => rfl
  | succ n ih => exact fun i => by simp [freeBytes, ih]

end Sys2Proof.Machine
end

