-- ==== Sys2Proof/Laws/State.lean ====
section
/-! SUPPORT. One lemma per field per update of the state: an update's own fields have their new values, every other field is as before. -/

namespace Sys2Proof.Machine

variable (s : State)

@[simp] theorem clearReport_cfg : (clearReport s).cfg = s.cfg := rfl
@[simp] theorem clearReport_phase : (clearReport s).phase = s.phase := rfl
@[simp] theorem clearReport_curOp : (clearReport s).curOp = s.curOp := rfl
@[simp] theorem clearReport_done : (clearReport s).done = false := rfl
@[simp] theorem clearReport_err : (clearReport s).err = false := rfl
@[simp] theorem clearReport_errcode : (clearReport s).errcode = 0 := rfl
@[simp] theorem clearReport_bpp : (clearReport s).bpp = s.bpp := rfl
@[simp] theorem clearReport_minseq : (clearReport s).minseq = s.minseq := rfl
@[simp] theorem clearReport_xform : (clearReport s).xform = s.xform := rfl
@[simp] theorem clearReport_len : (clearReport s).len = s.len := rfl
@[simp] theorem clearReport_outlen : (clearReport s).outlen = 0 := rfl
@[simp] theorem clearReport_mem : (clearReport s).mem = s.mem := rfl
@[simp] theorem clearReport_window : (clearReport s).window = s.window := rfl
@[simp] theorem clearReport_freeIdx : (clearReport s).freeIdx = s.freeIdx := rfl
@[simp] theorem clearReport_readData : (clearReport s).readData = s.readData := rfl
@[simp] theorem clearReport_readMatch : (clearReport s).readMatch = s.readMatch := rfl
@[simp] theorem clearReport_program : (clearReport s).program = s.program := rfl
@[simp] theorem clearReport_consumer : (clearReport s).consumer = s.consumer := rfl

@[simp] theorem finish_cfg : (finish s).cfg = s.cfg := rfl
@[simp] theorem finish_phase : (finish s).phase = .idle := rfl
@[simp] theorem finish_curOp : (finish s).curOp = s.curOp := rfl
@[simp] theorem finish_done : (finish s).done = true := rfl
@[simp] theorem finish_err : (finish s).err = s.err := rfl
@[simp] theorem finish_errcode : (finish s).errcode = s.errcode := rfl
@[simp] theorem finish_bpp : (finish s).bpp = s.bpp := rfl
@[simp] theorem finish_minseq : (finish s).minseq = s.minseq := rfl
@[simp] theorem finish_xform : (finish s).xform = s.xform := rfl
@[simp] theorem finish_len : (finish s).len = s.len := rfl
@[simp] theorem finish_outlen : (finish s).outlen = s.outlen := rfl
@[simp] theorem finish_mem : (finish s).mem = s.mem := rfl
@[simp] theorem finish_window : (finish s).window = s.window := rfl
@[simp] theorem finish_freeIdx : (finish s).freeIdx = s.freeIdx := rfl
@[simp] theorem finish_readData : (finish s).readData = s.readData := rfl
@[simp] theorem finish_readMatch : (finish s).readMatch = s.readMatch := rfl
@[simp] theorem finish_program : (finish s).program = s.program := rfl
@[simp] theorem finish_consumer : (finish s).consumer = s.consumer := rfl

@[simp] theorem reportError_cfg (e : ErrKind) : (reportError e s).cfg = s.cfg := rfl
@[simp] theorem reportError_phase (e : ErrKind) : (reportError e s).phase = s.phase := rfl
@[simp] theorem reportError_curOp (e : ErrKind) : (reportError e s).curOp = s.curOp := rfl
@[simp] theorem reportError_done (e : ErrKind) : (reportError e s).done = s.done := rfl
@[simp] theorem reportError_err (e : ErrKind) : (reportError e s).err = true := rfl
@[simp] theorem reportError_errcode (e : ErrKind) : (reportError e s).errcode = errCode e := rfl
@[simp] theorem reportError_bpp (e : ErrKind) : (reportError e s).bpp = s.bpp := rfl
@[simp] theorem reportError_minseq (e : ErrKind) : (reportError e s).minseq = s.minseq := rfl
@[simp] theorem reportError_xform (e : ErrKind) : (reportError e s).xform = s.xform := rfl
@[simp] theorem reportError_len (e : ErrKind) : (reportError e s).len = s.len := rfl
@[simp] theorem reportError_outlen (e : ErrKind) : (reportError e s).outlen = s.outlen := rfl
@[simp] theorem reportError_mem (e : ErrKind) : (reportError e s).mem = s.mem := rfl
@[simp] theorem reportError_window (e : ErrKind) : (reportError e s).window = s.window := rfl
@[simp] theorem reportError_freeIdx (e : ErrKind) : (reportError e s).freeIdx = s.freeIdx := rfl
@[simp] theorem reportError_readData (e : ErrKind) : (reportError e s).readData = s.readData := rfl
@[simp] theorem reportError_readMatch (e : ErrKind) : (reportError e s).readMatch = s.readMatch := rfl
@[simp] theorem reportError_program (e : ErrKind) : (reportError e s).program = s.program := rfl
@[simp] theorem reportError_consumer (e : ErrKind) : (reportError e s).consumer = s.consumer := rfl

@[simp] theorem advance_cfg (n : Nat) : (advance n s).cfg = s.cfg := rfl
@[simp] theorem advance_phase (n : Nat) : (advance n s).phase = s.phase := rfl
@[simp] theorem advance_curOp (n : Nat) : (advance n s).curOp = s.curOp := rfl
@[simp] theorem advance_done (n : Nat) : (advance n s).done = s.done := rfl
@[simp] theorem advance_err (n : Nat) : (advance n s).err = s.err := rfl
@[simp] theorem advance_errcode (n : Nat) : (advance n s).errcode = s.errcode := rfl
@[simp] theorem advance_bpp (n : Nat) : (advance n s).bpp = s.bpp := rfl
@[simp] theorem advance_minseq (n : Nat) : (advance n s).minseq = s.minseq := rfl
@[simp] theorem advance_xform (n : Nat) : (advance n s).xform = s.xform := rfl
@[simp] theorem advance_len (n : Nat) : (advance n s).len = s.len := rfl
@[simp] theorem advance_outlen (n : Nat) : (advance n s).outlen = s.outlen := rfl
@[simp] theorem advance_mem (n : Nat) : (advance n s).mem = s.mem := rfl
@[simp] theorem advance_window (n : Nat) : (advance n s).window = s.window := rfl
@[simp] theorem advance_freeIdx (n : Nat) : (advance n s).freeIdx = s.freeIdx + n := rfl
@[simp] theorem advance_readData (n : Nat) : (advance n s).readData = s.readData := rfl
@[simp] theorem advance_readMatch (n : Nat) : (advance n s).readMatch = s.readMatch := rfl
@[simp] theorem advance_program (n : Nat) : (advance n s).program = s.program := rfl
@[simp] theorem advance_consumer (n : Nat) : (advance n s).consumer = s.consumer := rfl

@[simp] theorem setRead_cfg (v : Word) : (setRead v s).cfg = s.cfg := rfl
@[simp] theorem setRead_phase (v : Word) : (setRead v s).phase = s.phase := rfl
@[simp] theorem setRead_curOp (v : Word) : (setRead v s).curOp = s.curOp := rfl
@[simp] theorem setRead_done (v : Word) : (setRead v s).done = s.done := rfl
@[simp] theorem setRead_err (v : Word) : (setRead v s).err = s.err := rfl
@[simp] theorem setRead_errcode (v : Word) : (setRead v s).errcode = s.errcode := rfl
@[simp] theorem setRead_bpp (v : Word) : (setRead v s).bpp = s.bpp := rfl
@[simp] theorem setRead_minseq (v : Word) : (setRead v s).minseq = s.minseq := rfl
@[simp] theorem setRead_xform (v : Word) : (setRead v s).xform = s.xform := rfl
@[simp] theorem setRead_len (v : Word) : (setRead v s).len = s.len := rfl
@[simp] theorem setRead_outlen (v : Word) : (setRead v s).outlen = s.outlen := rfl
@[simp] theorem setRead_mem (v : Word) : (setRead v s).mem = s.mem := rfl
@[simp] theorem setRead_window (v : Word) : (setRead v s).window = s.window := rfl
@[simp] theorem setRead_freeIdx (v : Word) : (setRead v s).freeIdx = s.freeIdx := rfl
@[simp] theorem setRead_readData (v : Word) : (setRead v s).readData = v := rfl
@[simp] theorem setRead_readMatch (v : Word) : (setRead v s).readMatch = s.readMatch := rfl
@[simp] theorem setRead_program (v : Word) : (setRead v s).program = s.program := rfl
@[simp] theorem setRead_consumer (v : Word) : (setRead v s).consumer = s.consumer := rfl

@[simp] theorem setMatch_cfg (b : Bool) : (setMatch b s).cfg = s.cfg := rfl
@[simp] theorem setMatch_phase (b : Bool) : (setMatch b s).phase = s.phase := rfl
@[simp] theorem setMatch_curOp (b : Bool) : (setMatch b s).curOp = s.curOp := rfl
@[simp] theorem setMatch_done (b : Bool) : (setMatch b s).done = s.done := rfl
@[simp] theorem setMatch_err (b : Bool) : (setMatch b s).err = s.err := rfl
@[simp] theorem setMatch_errcode (b : Bool) : (setMatch b s).errcode = s.errcode := rfl
@[simp] theorem setMatch_bpp (b : Bool) : (setMatch b s).bpp = s.bpp := rfl
@[simp] theorem setMatch_minseq (b : Bool) : (setMatch b s).minseq = s.minseq := rfl
@[simp] theorem setMatch_xform (b : Bool) : (setMatch b s).xform = s.xform := rfl
@[simp] theorem setMatch_len (b : Bool) : (setMatch b s).len = s.len := rfl
@[simp] theorem setMatch_outlen (b : Bool) : (setMatch b s).outlen = s.outlen := rfl
@[simp] theorem setMatch_mem (b : Bool) : (setMatch b s).mem = s.mem := rfl
@[simp] theorem setMatch_window (b : Bool) : (setMatch b s).window = s.window := rfl
@[simp] theorem setMatch_freeIdx (b : Bool) : (setMatch b s).freeIdx = s.freeIdx := rfl
@[simp] theorem setMatch_readData (b : Bool) : (setMatch b s).readData = s.readData := rfl
@[simp] theorem setMatch_readMatch (b : Bool) : (setMatch b s).readMatch = b := rfl
@[simp] theorem setMatch_program (b : Bool) : (setMatch b s).program = s.program := rfl
@[simp] theorem setMatch_consumer (b : Bool) : (setMatch b s).consumer = s.consumer := rfl

@[simp] theorem setMem_cfg (m : Memory) : (setMem m s).cfg = s.cfg := rfl
@[simp] theorem setMem_phase (m : Memory) : (setMem m s).phase = s.phase := rfl
@[simp] theorem setMem_curOp (m : Memory) : (setMem m s).curOp = s.curOp := rfl
@[simp] theorem setMem_done (m : Memory) : (setMem m s).done = s.done := rfl
@[simp] theorem setMem_err (m : Memory) : (setMem m s).err = s.err := rfl
@[simp] theorem setMem_errcode (m : Memory) : (setMem m s).errcode = s.errcode := rfl
@[simp] theorem setMem_bpp (m : Memory) : (setMem m s).bpp = s.bpp := rfl
@[simp] theorem setMem_minseq (m : Memory) : (setMem m s).minseq = s.minseq := rfl
@[simp] theorem setMem_xform (m : Memory) : (setMem m s).xform = s.xform := rfl
@[simp] theorem setMem_len (m : Memory) : (setMem m s).len = s.len := rfl
@[simp] theorem setMem_outlen (m : Memory) : (setMem m s).outlen = s.outlen := rfl
@[simp] theorem setMem_mem (m : Memory) : (setMem m s).mem = m := rfl
@[simp] theorem setMem_window (m : Memory) : (setMem m s).window = s.window := rfl
@[simp] theorem setMem_freeIdx (m : Memory) : (setMem m s).freeIdx = s.freeIdx := rfl
@[simp] theorem setMem_readData (m : Memory) : (setMem m s).readData = s.readData := rfl
@[simp] theorem setMem_readMatch (m : Memory) : (setMem m s).readMatch = s.readMatch := rfl
@[simp] theorem setMem_program (m : Memory) : (setMem m s).program = s.program := rfl
@[simp] theorem setMem_consumer (m : Memory) : (setMem m s).consumer = s.consumer := rfl

@[simp] theorem setOutlen_cfg (v : Word) : (setOutlen v s).cfg = s.cfg := rfl
@[simp] theorem setOutlen_phase (v : Word) : (setOutlen v s).phase = s.phase := rfl
@[simp] theorem setOutlen_curOp (v : Word) : (setOutlen v s).curOp = s.curOp := rfl
@[simp] theorem setOutlen_done (v : Word) : (setOutlen v s).done = s.done := rfl
@[simp] theorem setOutlen_err (v : Word) : (setOutlen v s).err = s.err := rfl
@[simp] theorem setOutlen_errcode (v : Word) : (setOutlen v s).errcode = s.errcode := rfl
@[simp] theorem setOutlen_bpp (v : Word) : (setOutlen v s).bpp = s.bpp := rfl
@[simp] theorem setOutlen_minseq (v : Word) : (setOutlen v s).minseq = s.minseq := rfl
@[simp] theorem setOutlen_xform (v : Word) : (setOutlen v s).xform = s.xform := rfl
@[simp] theorem setOutlen_len (v : Word) : (setOutlen v s).len = s.len := rfl
@[simp] theorem setOutlen_outlen (v : Word) : (setOutlen v s).outlen = v := rfl
@[simp] theorem setOutlen_mem (v : Word) : (setOutlen v s).mem = s.mem := rfl
@[simp] theorem setOutlen_window (v : Word) : (setOutlen v s).window = s.window := rfl
@[simp] theorem setOutlen_freeIdx (v : Word) : (setOutlen v s).freeIdx = s.freeIdx := rfl
@[simp] theorem setOutlen_readData (v : Word) : (setOutlen v s).readData = s.readData := rfl
@[simp] theorem setOutlen_readMatch (v : Word) : (setOutlen v s).readMatch = s.readMatch := rfl
@[simp] theorem setOutlen_program (v : Word) : (setOutlen v s).program = s.program := rfl
@[simp] theorem setOutlen_consumer (v : Word) : (setOutlen v s).consumer = s.consumer := rfl

@[simp] theorem setBpp_cfg (v : Word) : (setBpp v s).cfg = s.cfg := rfl
@[simp] theorem setBpp_phase (v : Word) : (setBpp v s).phase = s.phase := rfl
@[simp] theorem setBpp_curOp (v : Word) : (setBpp v s).curOp = s.curOp := rfl
@[simp] theorem setBpp_done (v : Word) : (setBpp v s).done = s.done := rfl
@[simp] theorem setBpp_err (v : Word) : (setBpp v s).err = s.err := rfl
@[simp] theorem setBpp_errcode (v : Word) : (setBpp v s).errcode = s.errcode := rfl
@[simp] theorem setBpp_bpp (v : Word) : (setBpp v s).bpp = v := rfl
@[simp] theorem setBpp_minseq (v : Word) : (setBpp v s).minseq = s.minseq := rfl
@[simp] theorem setBpp_xform (v : Word) : (setBpp v s).xform = s.xform := rfl
@[simp] theorem setBpp_len (v : Word) : (setBpp v s).len = s.len := rfl
@[simp] theorem setBpp_outlen (v : Word) : (setBpp v s).outlen = s.outlen := rfl
@[simp] theorem setBpp_mem (v : Word) : (setBpp v s).mem = s.mem := rfl
@[simp] theorem setBpp_window (v : Word) : (setBpp v s).window = s.window := rfl
@[simp] theorem setBpp_freeIdx (v : Word) : (setBpp v s).freeIdx = s.freeIdx := rfl
@[simp] theorem setBpp_readData (v : Word) : (setBpp v s).readData = s.readData := rfl
@[simp] theorem setBpp_readMatch (v : Word) : (setBpp v s).readMatch = s.readMatch := rfl
@[simp] theorem setBpp_program (v : Word) : (setBpp v s).program = s.program := rfl
@[simp] theorem setBpp_consumer (v : Word) : (setBpp v s).consumer = s.consumer := rfl

@[simp] theorem setMinseq_cfg (v : Word) : (setMinseq v s).cfg = s.cfg := rfl
@[simp] theorem setMinseq_phase (v : Word) : (setMinseq v s).phase = s.phase := rfl
@[simp] theorem setMinseq_curOp (v : Word) : (setMinseq v s).curOp = s.curOp := rfl
@[simp] theorem setMinseq_done (v : Word) : (setMinseq v s).done = s.done := rfl
@[simp] theorem setMinseq_err (v : Word) : (setMinseq v s).err = s.err := rfl
@[simp] theorem setMinseq_errcode (v : Word) : (setMinseq v s).errcode = s.errcode := rfl
@[simp] theorem setMinseq_bpp (v : Word) : (setMinseq v s).bpp = s.bpp := rfl
@[simp] theorem setMinseq_minseq (v : Word) : (setMinseq v s).minseq = v := rfl
@[simp] theorem setMinseq_xform (v : Word) : (setMinseq v s).xform = s.xform := rfl
@[simp] theorem setMinseq_len (v : Word) : (setMinseq v s).len = s.len := rfl
@[simp] theorem setMinseq_outlen (v : Word) : (setMinseq v s).outlen = s.outlen := rfl
@[simp] theorem setMinseq_mem (v : Word) : (setMinseq v s).mem = s.mem := rfl
@[simp] theorem setMinseq_window (v : Word) : (setMinseq v s).window = s.window := rfl
@[simp] theorem setMinseq_freeIdx (v : Word) : (setMinseq v s).freeIdx = s.freeIdx := rfl
@[simp] theorem setMinseq_readData (v : Word) : (setMinseq v s).readData = s.readData := rfl
@[simp] theorem setMinseq_readMatch (v : Word) : (setMinseq v s).readMatch = s.readMatch := rfl
@[simp] theorem setMinseq_program (v : Word) : (setMinseq v s).program = s.program := rfl
@[simp] theorem setMinseq_consumer (v : Word) : (setMinseq v s).consumer = s.consumer := rfl

@[simp] theorem setXform_cfg (v : Word) : (setXform v s).cfg = s.cfg := rfl
@[simp] theorem setXform_phase (v : Word) : (setXform v s).phase = s.phase := rfl
@[simp] theorem setXform_curOp (v : Word) : (setXform v s).curOp = s.curOp := rfl
@[simp] theorem setXform_done (v : Word) : (setXform v s).done = s.done := rfl
@[simp] theorem setXform_err (v : Word) : (setXform v s).err = s.err := rfl
@[simp] theorem setXform_errcode (v : Word) : (setXform v s).errcode = s.errcode := rfl
@[simp] theorem setXform_bpp (v : Word) : (setXform v s).bpp = s.bpp := rfl
@[simp] theorem setXform_minseq (v : Word) : (setXform v s).minseq = s.minseq := rfl
@[simp] theorem setXform_xform (v : Word) : (setXform v s).xform = v := rfl
@[simp] theorem setXform_len (v : Word) : (setXform v s).len = s.len := rfl
@[simp] theorem setXform_outlen (v : Word) : (setXform v s).outlen = s.outlen := rfl
@[simp] theorem setXform_mem (v : Word) : (setXform v s).mem = s.mem := rfl
@[simp] theorem setXform_window (v : Word) : (setXform v s).window = s.window := rfl
@[simp] theorem setXform_freeIdx (v : Word) : (setXform v s).freeIdx = s.freeIdx := rfl
@[simp] theorem setXform_readData (v : Word) : (setXform v s).readData = s.readData := rfl
@[simp] theorem setXform_readMatch (v : Word) : (setXform v s).readMatch = s.readMatch := rfl
@[simp] theorem setXform_program (v : Word) : (setXform v s).program = s.program := rfl
@[simp] theorem setXform_consumer (v : Word) : (setXform v s).consumer = s.consumer := rfl

@[simp] theorem setLen_cfg (v : Word) : (setLen v s).cfg = s.cfg := rfl
@[simp] theorem setLen_phase (v : Word) : (setLen v s).phase = s.phase := rfl
@[simp] theorem setLen_curOp (v : Word) : (setLen v s).curOp = s.curOp := rfl
@[simp] theorem setLen_done (v : Word) : (setLen v s).done = s.done := rfl
@[simp] theorem setLen_err (v : Word) : (setLen v s).err = s.err := rfl
@[simp] theorem setLen_errcode (v : Word) : (setLen v s).errcode = s.errcode := rfl
@[simp] theorem setLen_bpp (v : Word) : (setLen v s).bpp = s.bpp := rfl
@[simp] theorem setLen_minseq (v : Word) : (setLen v s).minseq = s.minseq := rfl
@[simp] theorem setLen_xform (v : Word) : (setLen v s).xform = s.xform := rfl
@[simp] theorem setLen_len (v : Word) : (setLen v s).len = v := rfl
@[simp] theorem setLen_outlen (v : Word) : (setLen v s).outlen = s.outlen := rfl
@[simp] theorem setLen_mem (v : Word) : (setLen v s).mem = s.mem := rfl
@[simp] theorem setLen_window (v : Word) : (setLen v s).window = s.window := rfl
@[simp] theorem setLen_freeIdx (v : Word) : (setLen v s).freeIdx = s.freeIdx := rfl
@[simp] theorem setLen_readData (v : Word) : (setLen v s).readData = s.readData := rfl
@[simp] theorem setLen_readMatch (v : Word) : (setLen v s).readMatch = s.readMatch := rfl
@[simp] theorem setLen_program (v : Word) : (setLen v s).program = s.program := rfl
@[simp] theorem setLen_consumer (v : Word) : (setLen v s).consumer = s.consumer := rfl

@[simp] theorem setConsumer_cfg (c : Consumer) : (setConsumer c s).cfg = s.cfg := rfl
@[simp] theorem setConsumer_phase (c : Consumer) : (setConsumer c s).phase = s.phase := rfl
@[simp] theorem setConsumer_curOp (c : Consumer) : (setConsumer c s).curOp = s.curOp := rfl
@[simp] theorem setConsumer_done (c : Consumer) : (setConsumer c s).done = s.done := rfl
@[simp] theorem setConsumer_err (c : Consumer) : (setConsumer c s).err = s.err := rfl
@[simp] theorem setConsumer_errcode (c : Consumer) : (setConsumer c s).errcode = s.errcode := rfl
@[simp] theorem setConsumer_bpp (c : Consumer) : (setConsumer c s).bpp = s.bpp := rfl
@[simp] theorem setConsumer_minseq (c : Consumer) : (setConsumer c s).minseq = s.minseq := rfl
@[simp] theorem setConsumer_xform (c : Consumer) : (setConsumer c s).xform = s.xform := rfl
@[simp] theorem setConsumer_len (c : Consumer) : (setConsumer c s).len = s.len := rfl
@[simp] theorem setConsumer_outlen (c : Consumer) : (setConsumer c s).outlen = s.outlen := rfl
@[simp] theorem setConsumer_mem (c : Consumer) : (setConsumer c s).mem = s.mem := rfl
@[simp] theorem setConsumer_window (c : Consumer) : (setConsumer c s).window = s.window := rfl
@[simp] theorem setConsumer_freeIdx (c : Consumer) : (setConsumer c s).freeIdx = s.freeIdx := rfl
@[simp] theorem setConsumer_readData (c : Consumer) : (setConsumer c s).readData = s.readData := rfl
@[simp] theorem setConsumer_readMatch (c : Consumer) : (setConsumer c s).readMatch = s.readMatch := rfl
@[simp] theorem setConsumer_program (c : Consumer) : (setConsumer c s).program = s.program := rfl
@[simp] theorem setConsumer_consumer (c : Consumer) : (setConsumer c s).consumer = c := rfl

@[simp] theorem setProgram_cfg (p : List Event) : (setProgram p s).cfg = s.cfg := rfl
@[simp] theorem setProgram_phase (p : List Event) : (setProgram p s).phase = s.phase := rfl
@[simp] theorem setProgram_curOp (p : List Event) : (setProgram p s).curOp = s.curOp := rfl
@[simp] theorem setProgram_done (p : List Event) : (setProgram p s).done = s.done := rfl
@[simp] theorem setProgram_err (p : List Event) : (setProgram p s).err = s.err := rfl
@[simp] theorem setProgram_errcode (p : List Event) : (setProgram p s).errcode = s.errcode := rfl
@[simp] theorem setProgram_bpp (p : List Event) : (setProgram p s).bpp = s.bpp := rfl
@[simp] theorem setProgram_minseq (p : List Event) : (setProgram p s).minseq = s.minseq := rfl
@[simp] theorem setProgram_xform (p : List Event) : (setProgram p s).xform = s.xform := rfl
@[simp] theorem setProgram_len (p : List Event) : (setProgram p s).len = s.len := rfl
@[simp] theorem setProgram_outlen (p : List Event) : (setProgram p s).outlen = s.outlen := rfl
@[simp] theorem setProgram_mem (p : List Event) : (setProgram p s).mem = s.mem := rfl
@[simp] theorem setProgram_window (p : List Event) : (setProgram p s).window = s.window := rfl
@[simp] theorem setProgram_freeIdx (p : List Event) : (setProgram p s).freeIdx = s.freeIdx := rfl
@[simp] theorem setProgram_readData (p : List Event) : (setProgram p s).readData = s.readData := rfl
@[simp] theorem setProgram_readMatch (p : List Event) : (setProgram p s).readMatch = s.readMatch := rfl
@[simp] theorem setProgram_program (p : List Event) : (setProgram p s).program = p := rfl
@[simp] theorem setProgram_consumer (p : List Event) : (setProgram p s).consumer = s.consumer := rfl

@[simp] theorem tick_cfg : (tick s).cfg = s.cfg := rfl
@[simp] theorem tick_phase : (tick s).phase = s.phase := rfl
@[simp] theorem tick_curOp : (tick s).curOp = s.curOp := rfl
@[simp] theorem tick_done : (tick s).done = s.done := rfl
@[simp] theorem tick_err : (tick s).err = s.err := rfl
@[simp] theorem tick_errcode : (tick s).errcode = s.errcode := rfl
@[simp] theorem tick_bpp : (tick s).bpp = s.bpp := rfl
@[simp] theorem tick_minseq : (tick s).minseq = s.minseq := rfl
@[simp] theorem tick_xform : (tick s).xform = s.xform := rfl
@[simp] theorem tick_len : (tick s).len = s.len := rfl
@[simp] theorem tick_outlen : (tick s).outlen = s.outlen := rfl
@[simp] theorem tick_mem : (tick s).mem = s.mem := rfl
@[simp] theorem tick_window : (tick s).window = s.window - 1 := rfl
@[simp] theorem tick_freeIdx : (tick s).freeIdx = s.freeIdx := rfl
@[simp] theorem tick_readData : (tick s).readData = s.readData := rfl
@[simp] theorem tick_readMatch : (tick s).readMatch = s.readMatch := rfl
@[simp] theorem tick_program : (tick s).program = s.program := rfl
@[simp] theorem tick_consumer : (tick s).consumer = s.consumer := rfl

@[simp] theorem latch_cfg (w : Word) : (latch w s).cfg = s.cfg := rfl
@[simp] theorem latch_phase (w : Word) : (latch w s).phase = .busy := rfl
@[simp] theorem latch_curOp (w : Word) : (latch w s).curOp = w := rfl
@[simp] theorem latch_done (w : Word) : (latch w s).done = s.done := rfl
@[simp] theorem latch_err (w : Word) : (latch w s).err = s.err := rfl
@[simp] theorem latch_errcode (w : Word) : (latch w s).errcode = s.errcode := rfl
@[simp] theorem latch_bpp (w : Word) : (latch w s).bpp = s.bpp := rfl
@[simp] theorem latch_minseq (w : Word) : (latch w s).minseq = s.minseq := rfl
@[simp] theorem latch_xform (w : Word) : (latch w s).xform = s.xform := rfl
@[simp] theorem latch_len (w : Word) : (latch w s).len = s.len := rfl
@[simp] theorem latch_outlen (w : Word) : (latch w s).outlen = s.outlen := rfl
@[simp] theorem latch_mem (w : Word) : (latch w s).mem = s.mem := rfl
@[simp] theorem latch_window (w : Word) : (latch w s).window = Config.busyWindow s.freeIdx := rfl
@[simp] theorem latch_freeIdx (w : Word) : (latch w s).freeIdx = s.freeIdx + 1 := rfl
@[simp] theorem latch_readData (w : Word) : (latch w s).readData = s.readData := rfl
@[simp] theorem latch_readMatch (w : Word) : (latch w s).readMatch = s.readMatch := rfl
@[simp] theorem latch_program (w : Word) : (latch w s).program = s.program := rfl
@[simp] theorem latch_consumer (w : Word) : (latch w s).consumer = s.consumer := rfl

end Sys2Proof.Machine
end

