-- ==== Sys2Proof/Laws/Ops.lean ====
section
/-! SUPPORT. One lemma per shared operation that says everything it can do; proofs cite these and do not unfold the operations. -/

namespace Sys2Proof.Machine

theorem isBusy_eq_true (s : State) : s.isBusy = true ↔ s.phase = .busy := by
  unfold State.isBusy
  cases s.phase <;> decide

theorem isBusy_eq_false (s : State) : s.isBusy = false ↔ s.phase = .idle := by
  unfold State.isBusy
  cases s.phase <;> decide

@[simp] theorem clearReport_isBusy (s : State) : (clearReport s).isBusy = s.isBusy := rfl

/-- What `launch` can do (44_commands.md R140). -/
theorem launch_cases (w : Word) (s : State) :
    (s.phase = .busy ∧ launch w s = s) ∨ (s.phase = .idle ∧ w = 0 ∧ launch w s = s) ∨
    (s.phase = .idle ∧ w = 3 ∧ launch w s = clearReport s) ∨
    (s.phase = .idle ∧ w ≠ 0 ∧ w ≠ 3 ∧ launch w s = latch w (clearReport s)) := by
  unfold launch
  cases h : s.isBusy with
  | true => exact .inl ⟨(isBusy_eq_true s).1 h, by simp⟩
  | false =>
    have hi := (isBusy_eq_false s).1 h
    by_cases h0 : w = 0
    · exact .inr (.inl ⟨hi, h0, by simp [h0]⟩)
    · by_cases h3 : w = 3
      · exact .inr (.inr (.inl ⟨hi, h3, by simp [h3]⟩))
      · exact .inr (.inr (.inr ⟨hi, h0, h3, by rw [if_neg Bool.false_ne_true, if_neg h0, if_neg h3]⟩))

/-- What `runCommand` can do. -/
theorem runCommand_cases (op : Word) (s : State) :
    (s.phase = .busy ∧ s.curOp = op ∧ runCommand op s = complete s) ∨
    (s.phase = .busy ∧ s.curOp ≠ op ∧ runCommand op s = s) ∨ (s.phase = .idle ∧ runCommand op s = launch op s) := by
  unfold runCommand
  cases h : s.isBusy with
  | true =>
    by_cases hop : s.curOp = op
    · exact .inl ⟨(isBusy_eq_true s).1 h, hop, by simp [hop]⟩
    · exact .inr (.inl ⟨(isBusy_eq_true s).1 h, hop, by simp [hop]⟩)
  | false => exact .inr (.inr ⟨(isBusy_eq_false s).1 h, by simp⟩)

/-- The completion step is an error entry, or the finished work of a command whose checks have all passed (R141). -/
theorem complete_cases (s : State) :
    (∃ e, checks s.cfg s.curOp s.bpp s.xform s.len = some e ∧ complete s = raiseError e s) ∨
    (checks s.cfg s.curOp s.bpp s.xform s.len = none ∧ complete s = finish (commandWork s)) := by
  unfold complete
  cases h : checks s.cfg s.curOp s.bpp s.xform s.len with
  | some e => exact .inl ⟨e, rfl, rfl⟩
  | none => exact .inr ⟨rfl, rfl⟩

/-- The work of `RLE` writes one output: the encoding of the input, or free bytes within the bound. -/
theorem rleWork_cases (s : State) :
    (∃ bytes, rleInput s = some bytes ∧ rleWork s = writeOutput (rleEncode bytes s.minseq.toNat s.xform) s) ∨
    (rleInput s = none ∧ ∃ n, n ≤ 2 * s.len.toNat ∧ rleWork s = writeFreeOutput n (advance 1 s)) := by
  unfold rleWork
  cases h : rleInput s with
  | some bytes => exact .inl ⟨bytes, rfl, rfl⟩
  | none =>
    refine .inr ⟨rfl, freeOutputLength s, ?_, rfl⟩
    have := Nat.mod_lt (Config.freeCount s.freeIdx) (show 0 < 2 * s.len.toNat + 1 by omega)
    unfold freeOutputLength
    omega

/-- The work of `DCTQ` writes one output: the packed levels of the block, or 16 free bytes. -/
theorem dctqWork_cases (s : State) :
    (∃ bytes, dctqInput s = some bytes ∧ dctqWork s = writeOutput (wordBytes (dctqBlock s.cfg bytes)) s) ∨
    (dctqInput s = none ∧ dctqWork s = writeFreeOutput 16 s) := by
  unfold dctqWork
  cases h : dctqInput s with
  | some bytes => exact .inl ⟨bytes, rfl, rfl⟩
  | none => exact .inr ⟨rfl, rfl⟩

/-- A packed block is 16 bytes. -/
@[simp] theorem wordBytes_dctqBlock_length (p : Params) (P : List Byte) : (wordBytes (dctqBlock p P)).length = 16 := by
  simp [wordBytes, dctqBlock, pack, index4, leBytes]

/-- Writing an output leaves every offset outside it alone. -/
theorem writeOutput_read_outside (out : List Byte) (s : State) (a : Nat) (h : ¬ inOutput out.length a) :
    (writeOutput out s).mem.read a = s.mem.read a := by
  unfold inOutput at h
  simp only [writeOutput, setOutlen_mem, setMem_mem]
  exact memory_read_writeBytes_outside _ _ _ _ (by omega)

/-- Writing an output stores its bytes in `OBUF` from index 0. -/
theorem writeOutput_read_inside (out : List Byte) (s : State) (k : Nat) (h : k < out.length) :
    (writeOutput out s).mem.read (obufBase + k) = out[k]? := by
  simp only [writeOutput, setOutlen_mem, setMem_mem]
  exact memory_read_writeBytes_inside _ _ _ _ h

/-- What a register write can do (44_commands.md R148). -/
theorem writeReg_cases (r : Reg) (v : Word) (s : State) :
    (r = .cmd ∧ writeReg r v s = launch v s) ∨ writeReg r v s = s ∨
    (s.phase = .idle ∧ ((r = .bpp ∧ writeReg r v s = setBpp v s) ∨ (r = .minseq ∧ writeReg r v s = setMinseq v s) ∨
      (r = .xform ∧ writeReg r v s = setXform v s) ∨ (r = .len ∧ writeReg r v s = setLen v s))) := by
  rcases h : s.isBusy with _ | _
  · have hi := (isBusy_eq_false s).1 h
    cases r <;> simp [writeReg, h, hi]
  · cases r <;> simp [writeReg, h]

/-- A read changes nothing of the block (20_memory.md R44). -/
theorem readAt_blockPart (w : Width) (off : Nat) (s : State) : blockPart (readAt w off s) = blockPart s := by
  unfold readAt
  split
  · rfl
  · rfl
  · split <;> rfl
  · split <;> rfl

/-- What a write can do: nothing, a register write, or bytes stored in `IBUF` while the block is idle (R41, R148, R149). -/
theorem writeAt_cases (w : Width) (off : Nat) (v : Word) (s : State) :
    writeAt w off v s = s ∨ (∃ r, regionAt s.cfg off = .reg r ∧ writeAt w off v s = writeReg r v s) ∨
    (∃ i bs, regionAt s.cfg off = .ibuf i ∧ s.phase = .idle ∧ (bs = [laneByte v 0] ∨ bs = leBytes v) ∧
      writeAt w off v s = setMem (s.mem.writeBytes off bs) s) := by
  unfold writeAt
  cases h : regionAt s.cfg off with
  | reg r => exact .inr (.inl ⟨r, rfl, rfl⟩)
  | reserved => exact .inl rfl
  | obuf i => exact .inl rfl
  | ibuf i =>
    simp only [writeInput]
    cases hb : s.isBusy with
    | true => exact .inl (by simp)
    | false =>
      refine .inr (.inr ⟨i, if w = .byte then [laneByte v 0] else leBytes v, rfl, (isBusy_eq_false s).1 hb, ?_, ?_⟩)
      · split <;> simp
      · split <;> simp

/-- An access answers a next state exactly when R43 admits it, and is refused otherwise. -/
theorem access_cases (a : Access) (s : State) :
    (∃ w off, a = .read w off ∧ admitted w off.toNat = true ∧ access a s = .next (readAt w off.toNat s)) ∨
    (∃ w off v, a = .write w off v ∧ admitted w off.toNat = true ∧ access a s = .next (writeAt w off.toNat v s)) ∨
    access a s = .refused .notAdmitted := by
  cases a with
  | read w off =>
    cases h : admitted w off.toNat with
    | true => exact .inl ⟨w, off, rfl, h, by simp [access, h]⟩
    | false => exact .inr (.inr (by simp [access, h]))
  | write w off v =>
    cases h : admitted w off.toNat with
    | true => exact .inr (.inl ⟨w, off, v, rfl, h, by simp [access, h]⟩)
    | false => exact .inr (.inr (by simp [access, h]))

/-- A step of a machine with good parameters carries out the action its fetch answers. -/
theorem step_eq_perform (s : State) (h : Config.wellFormed s.cfg = true) : step s = perform (fetch s).1 (fetch s).2 := by
  simp [step, h]

end Sys2Proof.Machine
end

