-- ==== Sys2Proof/Laws/PerInstr.lean ====
section
/-! SUPPORT. Families of statements made per constructor of `Instr`. -/

namespace Sys2Proof.Laws

/-- How many bytes an object has (30_encoding.md R61, R69, R70, R72). -/
def objectSize : Instr → Nat
  | .repeatRecord _ _ => 2
  | .sequenceRecord lm1 _ => lm1.toNat + 2
  | _ => 4

/-- The encoding of a well-formed object has the object's size. -/
def EncodedSize.Statement (i : Instr) : Prop := i.wf = true → (encode i).length = objectSize i

theorem EncodedSize.nop : EncodedSize.Statement .nop := fun _ => rfl
theorem EncodedSize.rle : EncodedSize.Statement .rle := fun _ => rfl
theorem EncodedSize.dctq : EncodedSize.Statement .dctq := fun _ => rfl
theorem EncodedSize.clear : EncodedSize.Statement .clear := fun _ => rfl
theorem EncodedSize.reservedCmd (op : Word) : EncodedSize.Statement (.reservedCmd op) := fun _ => rfl
theorem EncodedSize.repeatRecord (lm1 : BitVec 7) (value : Byte) : EncodedSize.Statement (.repeatRecord lm1 value) :=
  fun _ => rfl
theorem EncodedSize.sequenceRecord (lm1 : BitVec 7) (values : List Byte) :
    EncodedSize.Statement (.sequenceRecord lm1 values) := by
  intro h
  have : values.length = lm1.toNat + 1 := by simpa [Instr.wf] using h
  simp [encode, objectSize, this]
theorem EncodedSize.qword (q0 q1 q2 q3 : Byte) : EncodedSize.Statement (.qword q0 q1 q2 q3) := fun _ => rfl
theorem EncodedSize.xformNone : EncodedSize.Statement .xformNone := fun _ => rfl
theorem EncodedSize.xformRevbits : EncodedSize.Statement .xformRevbits := fun _ => rfl
theorem EncodedSize.xformRevnib : EncodedSize.Statement .xformRevnib := fun _ => rfl
theorem EncodedSize.xformRevend : EncodedSize.Statement .xformRevend := fun _ => rfl
theorem EncodedSize.xformReserved (tag : Word) : EncodedSize.Statement (.xformReserved tag) := fun _ => rfl
theorem EncodedSize.errNone : EncodedSize.Statement .errNone := fun _ => rfl
theorem EncodedSize.errOutOfRange : EncodedSize.Statement .errOutOfRange := fun _ => rfl
theorem EncodedSize.errUnsupportedConfiguration : EncodedSize.Statement .errUnsupportedConfiguration := fun _ => rfl
theorem EncodedSize.errEmptyInput : EncodedSize.Statement .errEmptyInput := fun _ => rfl
theorem EncodedSize.statusIdleNothingFinished : EncodedSize.Statement .statusIdleNothingFinished := fun _ => rfl
theorem EncodedSize.statusBusy : EncodedSize.Statement .statusBusy := fun _ => rfl
theorem EncodedSize.statusDoneOk : EncodedSize.Statement .statusDoneOk := fun _ => rfl
theorem EncodedSize.statusDoneError : EncodedSize.Statement .statusDoneError := fun _ => rfl
theorem EncodedSize.bpp1 : EncodedSize.Statement .bpp1 := fun _ => rfl
theorem EncodedSize.bpp4 : EncodedSize.Statement .bpp4 := fun _ => rfl
theorem EncodedSize.bpp8 : EncodedSize.Statement .bpp8 := fun _ => rfl

end Sys2Proof.Laws
end

