-- ==== Sys2Proof/Tests/Slice0.lean ====
section
/-! SUPPORT. Tests: what the checks and the decoder refuse, one decoding of every row, small steps with the results of the spec's own vectors
(95_test_vectors.md, named V-…), and for every statement with hypotheses a concrete case that meets them. -/

namespace Sys2Proof.Tests

open Sys2Proof Sys2Proof.Machine

set_option Elab.async false

/-! ### Fixtures -/

/-- The outcome is a next state that passes the check. -/
def passes (o : Host.Outcome State Fault Refusal) (check : State → Bool) : Bool :=
  match o with
  | .next t => check t
  | .fault _ => false
  | .refused _ => false

/-- The outcome is the refusal of an access that is not admitted. -/
def isRefused (o : Host.Outcome State Fault Refusal) : Bool :=
  match o with
  | .refused r => r == .notAdmitted
  | .next _ => false
  | .fault _ => false

/-- The input of V-S1. -/
def runs : List Byte := [1, 1, 1, 2, 3, 3]

/-- Idle, with V-RL1 set up. -/
def rleReady : State :=
  { State.reset with bpp := 1, minseq := 1, len := 6, mem := Memory.writeBytes [] ibufBase runs }

/-- V-RL1 launched. -/
def rleBusy : State := { rleReady with phase := .busy, curOp := 1 }

/-- V-RL1 finished. -/
def rleDone : State :=
  { rleReady with curOp := 1, done := true, outlen := 6, mem := rleReady.mem.writeBytes obufBase [0x82, 1, 0, 2, 0x81, 3] }

/-- The block of V-D6: 134 on the diagonal, else 128. -/
def diagonal : List Byte := (List.range 64).map fun k => if k % 9 = 0 then 134 else 128

/-- Idle, with V-D6 set up. -/
def dctqReady : State := { State.reset with bpp := 8, mem := Memory.writeBytes [] ibufBase diagonal }

/-- V-D6 launched. -/
def dctqBusy : State := { dctqReady with phase := .busy, curOp := 2 }

/-- A command has ended in `UnsupportedConfiguration`. -/
def failed : State := { State.reset with curOp := 1, done := true, err := true, errcode := 2 }

/-- A launched command that has host events before its completion step. -/
def inWindow (p : List Event) : State := { rleBusy with window := 2, program := p }

/-- A consumer in front of the stream of V-RL1. -/
def reader : State :=
  { State.reset with consumer := { Consumer.fresh with array := [0x82, 1, 0, 2, 0x81, 3] } }

/-- The invariant, as a check. -/
def checkInv (s : State) : Bool :=
  Config.wellFormed s.cfg && s.mem.wf &&
  s.mem.all (fun c => (decide (ibufBase ≤ c.1) && decide (c.1 < ibufBase + s.cfg.ibufSize)) ||
    (decide (obufBase ≤ c.1) && decide (c.1 < obufBase + obufSize s.cfg))) &&
  decide (s.phase = .busy → s.done = false ∧ s.outlen = 0 ∧ s.curOp ≠ 0 ∧ s.curOp ≠ 3) &&
  decide (s.err = true → s.done = true) && decide (s.err = true ↔ s.errcode ≠ 0) &&
  decide (s.err = true ∨ s.done = false → s.outlen = 0) && decide (s.outlen.toNat ≤ obufSize s.cfg) &&
  (List.range s.outlen.toNat).all (fun k => (s.mem.read (obufBase + k)).isSome)

theorem inv_of_check (s : State) (h : checkInv s = true) : s.Inv := by
  simp only [checkInv, Bool.and_eq_true, decide_eq_true_eq, List.all_eq_true, Bool.or_eq_true, List.mem_range] at h
  obtain ⟨⟨⟨⟨⟨⟨⟨⟨a, b⟩, c⟩, d⟩, e⟩, f⟩, g⟩, i⟩, j⟩ := h
  exact ⟨a, b, c, d, e, f, g, i, j⟩

theorem inv_rleReady : rleReady.Inv := inv_of_check _ (by decide +kernel)
theorem inv_rleBusy : rleBusy.Inv := inv_of_check _ (by decide +kernel)
theorem inv_rleDone : rleDone.Inv := inv_of_check _ (by decide +kernel)
theorem inv_dctqReady : dctqReady.Inv := inv_of_check _ (by decide +kernel)
theorem inv_failed : failed.Inv := inv_of_check _ (by decide +kernel)
theorem inv_inWindow (p : List Event) : (inWindow p).Inv :=
  ⟨inv_rleBusy.params, inv_rleBusy.memForm, inv_rleBusy.memPlace, inv_rleBusy.busyClean, inv_rleBusy.errDone, inv_rleBusy.errCode,
    inv_rleBusy.noOutput, inv_rleBusy.outFits, inv_rleBusy.outStored⟩

/-! ### WellFormed refuses -/

theorem test_wf_reservedCmd : (Instr.reservedCmd 3).wf = false ∧ (Instr.reservedCmd 4).wf = true := by decide
theorem test_wf_xformReserved : (Instr.xformReserved 1).wf = false ∧ (Instr.xformReserved 4).wf = true := by decide
theorem test_wf_sequenceRecord : (Instr.sequenceRecord 3 [1]).wf = false ∧ (Instr.sequenceRecord 0 []).wf = false := by decide

/-! ### One word of every row, written out from the tables of 30_encoding.md -/

/-- R62, R63. -/
theorem test_decode_cmd :
    decode .cmd [0x00, 0, 0, 0] = .ok (.nop, []) ∧ decode .cmd [0x01, 0, 0, 0] = .ok (.rle, []) ∧
    decode .cmd [0x02, 0, 0, 0] = .ok (.dctq, []) ∧ decode .cmd [0x03, 0, 0, 0] = .ok (.clear, []) ∧
    decode .cmd [0x01, 0x01, 0, 0] = .ok (.reservedCmd 0x00000101, []) ∧
    decode .cmd [0xFF, 0xFF, 0xFF, 0xFF] = .ok (.reservedCmd 0xFFFFFFFF, []) := by decide

/-- R69: `0x80 | 127` and `0x80` are repeats of 128 and of 1; 0x00 and 0x02 are sequences of 1 and of 3 (V-S9). -/
theorem test_decode_hdr :
    decode .hdr [0b1_1111111, 0x11, 9] = .ok (.repeatRecord 127 0x11, [9]) ∧
    decode .hdr [0b1_0000000, 0x42] = .ok (.repeatRecord 0 0x42, []) ∧
    decode .hdr [0b0_0000000, 0x42] = .ok (.sequenceRecord 0 [0x42], []) ∧
    decode .hdr [0b0_0000010, 2, 3, 3, 0x80] = .ok (.sequenceRecord 2 [2, 3, 3], [0x80]) := by decide

/-- R72: lane 0 in bits 7:0, at the lowest offset (V-D9). -/
theorem test_decode_qword :
    decode .qword [0xEA, 0xE5, 0x00, 0xFE] = .ok (.qword 0xEA 0xE5 0x00 0xFE, []) ∧
    decodeQword 0xFE00E5EA = .qword 0xEA 0xE5 0x00 0xFE := by decide

/-- R64. -/
theorem test_decode_xform :
    decode .xform [0, 0, 0, 0] = .ok (.xformNone, []) ∧ decode .xform [1, 0, 0, 0] = .ok (.xformRevbits, []) ∧
    decode .xform [2, 0, 0, 0] = .ok (.xformRevnib, []) ∧ decode .xform [3, 0, 0, 0] = .ok (.xformRevend, []) ∧
    decode .xform [4, 0, 0, 0] = .ok (.xformReserved 4, []) ∧
    decode .xform [0, 0, 0, 1] = .ok (.xformReserved 0x01000000, []) := by decide

/-- R65; 2 is no depth (V-S4). -/
theorem test_decode_bpp :
    decode .bpp [1, 0, 0, 0] = .ok (.bpp1, []) ∧ decode .bpp [4, 0, 0, 0] = .ok (.bpp4, []) ∧
    decode .bpp [8, 0, 0, 0] = .ok (.bpp8, []) ∧ decode .bpp [2, 0, 0, 0] = .error (.illegalDepth 2) ∧
    decode .bpp [1, 1, 0, 0] = .error (.illegalDepth 0x101) := by decide

/-- R66. -/
theorem test_decode_errcode :
    decode .errcode [0, 0, 0, 0] = .ok (.errNone, []) ∧ decode .errcode [1, 0, 0, 0] = .ok (.errOutOfRange, []) ∧
    decode .errcode [2, 0, 0, 0] = .ok (.errUnsupportedConfiguration, []) ∧
    decode .errcode [3, 0, 0, 0] = .ok (.errEmptyInput, []) ∧ decode .errcode [4, 0, 0, 0] = .error (.noErrorCode 4) := by decide

/-- R67. -/
theorem test_decode_status :
    decode .status [0b000, 0, 0, 0] = .ok (.statusIdleNothingFinished, []) ∧ decode .status [0b001, 0, 0, 0] = .ok (.statusBusy, []) ∧
    decode .status [0b010, 0, 0, 0] = .ok (.statusDoneOk, []) ∧ decode .status [0b110, 0, 0, 0] = .ok (.statusDoneError, []) ∧
    decode .status [3, 0, 0, 0] = .error (.noStatusValue 3) := by decide

/-- R71: a record cut short is the only malformed stream (V-RL43, V-RL44). -/
theorem test_decode_truncated :
    decode .hdr [0x82] = .error .truncated ∧ decode .hdr [0x01, 5] = .error .truncated ∧ decode .hdr [] = .error .truncated ∧
    decode .cmd [1, 0, 0] = .error .truncated := by decide

/-- The table entry: bytes low first, zeros above the row's bits. -/
theorem test_decodeTableWord :
    decodeTableWord 32 2 = some .dctq ∧ decodeTableWord 32 0x104 = some (.reservedCmd 0x104) ∧
    decodeTableWord 8 0x85 = some (.repeatRecord 5 0) ∧ decodeTableWord 8 1 = some (.sequenceRecord 1 [0, 0]) ∧
    decodeTableWord 16 0 = none := by decide +kernel

/-- The table word placed runs in the very next step: a launch of `RLE`, and a repeat record of six zeros. -/
theorem test_withFetchWord :
    passes (step (State.reset.withFetchWord 32 1)) (fun t => statusWord t == 1 && t.curOp == 1) = true ∧
    passes (step (State.reset.withFetchWord 8 0x85)) (fun t => t.consumer.out == [0, 0, 0, 0, 0, 0] && t.consumer.pos == 2) = true := by
  decide +kernel

/-! ### Small steps -/

/-- V-E15. -/
theorem test_nop : passes (exec .nop failed) (fun t => statusWord t == 6 && t.errcode == 2 && t.outlen == 0) = true := by decide +kernel

/-- V-RL1. -/
theorem test_rle : passes (exec .rle rleBusy) (fun t => statusWord t == 2 && t.outlen == 6 &&
    t.mem.readBytes obufBase 6 == some [0x82, 0x01, 0x00, 0x02, 0x81, 0x03]) = true := by decide +kernel

/-- V-E17, the launch: the old report is cleared. -/
theorem test_rle_launch : passes (exec .rle failed) (fun t => statusWord t == 1 && t.errcode == 0 && t.curOp == 1) = true := by decide +kernel

/-- V-D6. -/
theorem test_dctq : passes (exec .dctq dctqBusy) (fun t => statusWord t == 2 && t.outlen == 16 &&
    t.mem.readBytes obufBase 16 == some [0, 0, 0, 0, 0, 1, 0, 0, 0, 0, 0, 0, 0, 0, 0, 0]) = true := by decide +kernel

/-- V-E14's report: `XFORM` and `LEN` are not looked at. -/
theorem test_dctq_ignores : passes (exec .dctq { dctqBusy with xform := 9, len := 0xFFFFFFFF, minseq := 7 })
    (fun t => statusWord t == 2 && t.outlen == 16) = true := by decide +kernel

/-- V-E16. -/
theorem test_clear : passes (exec .clear rleDone) (fun t => statusWord t == 0 && t.outlen == 0 &&
    t.mem.readBytes obufBase 6 == some [0x82, 0x01, 0x00, 0x02, 0x81, 0x03]) = true := by decide +kernel

/-- V-E1, V-E2. -/
theorem test_reservedCmd : passes (exec (.reservedCmd 0x101) { rleBusy with curOp := 0x101 })
    (fun t => statusWord t == 6 && t.errcode == 2 && t.outlen == 0) = true := by decide +kernel

/-- V-RL40, its first record. -/
theorem test_repeatRecord : passes (exec (.repeatRecord 2 1) reader) (fun t => t.consumer.out == [1, 1, 1] && t.consumer.pos == 2) = true := by
  decide +kernel

/-- V-RL41, its first record. -/
theorem test_sequenceRecord : passes (exec (.sequenceRecord 0 [5]) reader) (fun t => t.consumer.out == [5] && t.consumer.pos == 2) = true := by
  decide +kernel

/-- V-Q4. -/
theorem test_qword : passes (exec (.qword 0xEA 0xE5 0x00 0xFE) reader) (fun t => t.consumer.levels == [-22, -27, 0, -2]) = true := by
  decide +kernel

/-- R64, R65, R148: the tags and depths written. -/
theorem test_tags_and_depths :
    passes (exec .xformNone rleReady) (fun t => t.xform == 0) = true ∧ passes (exec .xformRevbits rleReady) (fun t => t.xform == 1) = true ∧
    passes (exec .xformRevnib rleReady) (fun t => t.xform == 2) = true ∧ passes (exec .xformRevend rleReady) (fun t => t.xform == 3) = true ∧
    passes (exec (.xformReserved 9) rleReady) (fun t => t.xform == 9) = true ∧ passes (exec .bpp1 rleDone) (fun t => t.bpp == 1) = true ∧
    passes (exec .bpp4 rleDone) (fun t => t.bpp == 4) = true ∧ passes (exec .bpp8 rleBusy) (fun t => t.bpp == 1) = true := by decide +kernel

/-- R66, R67: the codes and values read. -/
theorem test_codes_and_values :
    passes (exec .errNone rleDone) (fun t => t.readMatch && t.readData == 0) = true ∧
    passes (exec .errOutOfRange { failed with errcode := 1 }) (fun t => t.readMatch && t.readData == 1) = true ∧
    passes (exec .errUnsupportedConfiguration failed) (fun t => t.readMatch && t.readData == 2) = true ∧
    passes (exec .errEmptyInput failed) (fun t => !t.readMatch && t.readData == 2) = true ∧
    passes (exec .statusIdleNothingFinished rleReady) (fun t => t.readMatch && t.readData == 0) = true ∧
    passes (exec .statusBusy rleBusy) (fun t => t.readMatch && t.readData == 1) = true ∧
    passes (exec .statusDoneOk rleDone) (fun t => t.readMatch && t.readData == 2) = true ∧
    passes (exec .statusDoneError failed) (fun t => t.readMatch && t.readData == 6) = true := by decide +kernel

/-- V-E5, V-E11, V-E9, V-E12: the checks in order. -/
theorem test_checks :
    checks Config.defaults 1 8 0 0x7FFFFFFF = some .unsupportedConfiguration ∧
    checks Config.defaults 1 1 9 0xFFFFFFFF = some .unsupportedConfiguration ∧ checks Config.defaults 1 1 0 4097 = some .outOfRange ∧
    checks Config.defaults 1 4 0 0 = none ∧ checks { Config.defaults with emptyInputFaults := true } 1 4 0 0 = some .emptyInput ∧
    checks { Config.defaults with emptyInputFaults := true } 1 4 0 4097 = some .outOfRange := by decide +kernel

/-- V-A4, V-A3, V-A2, V-A5: register reads and ignored writes. -/
theorem test_registers :
    passes (access (.read .word 0x00054) failed) (fun t => t.readData == 12) = true ∧
    passes (access (.read .word 0x0007C) failed) (fun t => t.readData == 29) = true ∧
    passes (access (.read .word 0x00020) failed) (fun t => t.readData == 0) = true ∧
    passes (access (.write .word 0x00008 7) failed) (fun t => t == failed) = true ∧
    passes (access (.write .word 0x00040 1) failed) (fun t => t == failed) = true := by decide +kernel

/-- V-A8 (one word stored little-endian), V-A9 (a write to `OBUF`), and a 16-bit access. -/
theorem test_buffers :
    passes (access (.write .word 0x10004 0xDDCCBBAA) rleReady) (fun t => t.mem.readBytes 0x10004 4 == some [0xAA, 0xBB, 0xCC, 0xDD]) = true ∧
    passes (access (.write .byte 0x20000 0x55) rleDone) (fun t => t == rleDone) = true ∧
    passes (access (.read .byte 0x20004) rleDone) (fun t => t.readData == 0x81) = true ∧
    isRefused (access (.read .half 0x10000) rleDone) = true ∧ isRefused (access (.write .byte 0x0000C 1) rleDone) = true := by decide +kernel

/-- A completion step, and a reset in the `BUSY` window (R180). -/
theorem test_step :
    passes (step rleBusy) (fun t => statusWord t == 2 && t.outlen == 6) = true ∧
    passes (step (inWindow [.rst])) (fun t => statusWord t == 0 && t.mem == [] && t.bpp == 0) = true := by decide +kernel

/-! ### The functions, by the spec's vectors -/

/-- V-B1, V-B2, V-B5, V-B7, V-B8, V-B10. -/
theorem test_bitops :
    (List.range 9).map (fun i => (getBit [0xB0] i).toOption) = [some 1, some 0, some 1, some 1, some 0, some 0, some 0, some 0, none] ∧
    reverseBits [0x12, 0x34, 0x56, 0x78] = [0x1E, 0x6A, 0x2C, 0x48] ∧ reverseNibbles [0xAB, 0xCD, 0xEF] = [0xFE, 0xDC, 0xBA] ∧
    reverseEndianness [0x12, 0x34, 0x56, 0x78] = [0x78, 0x56, 0x34, 0x12] ∧ xf 2 0xF0 = .ok 0x0F ∧ xf 1 0xB0 = .ok 0x0D ∧
    xf 4 0 = .error .unsupportedConfiguration := by decide +kernel

/-- V-RL2, V-RL3, V-RL4, V-RL25, V-RL26. -/
theorem test_rleEncode :
    rleEncode runs 0 0 = [0x82, 0x01, 0x80, 0x02, 0x81, 0x03] ∧ rleEncode runs 2 0 = [0x82, 0x01, 0x02, 0x02, 0x03, 0x03] ∧
    rleEncode runs 3 0 = [0x05, 0x01, 0x01, 0x01, 0x02, 0x03, 0x03] ∧ rleEncode [1, 1, 1, 1, 0x80] 3 1 = [0x83, 0x80, 0x00, 0x01] ∧
    rleEncode [0x1F, 0x1F, 0x1F, 0x1F, 0x2E] 3 2 = [0x83, 0xF1, 0x00, 0xE2] := by decide +kernel

/-- V-RL19, V-RL24, V-RL18: chunking. -/
theorem test_rleEncode_chunks :
    rleEncode (List.replicate 300 0xAA) 3 0 = [0xFF, 0xAA, 0xFF, 0xAA, 0xAB, 0xAA] ∧
    rleEncode (List.replicate 200 3) 199 0 = [0xFF, 0x03, 0xC7, 0x03] ∧
    rleEncode (List.replicate 200 3) 200 0 = 0x7F :: List.replicate 128 3 ++ 0x47 :: List.replicate 72 3 := by decide +kernel

/-- V-RL40 to V-RL45. -/
theorem test_rleDecode :
    rleDecode [0x82, 1, 0, 2, 0x81, 3] = some runs ∧ rleDecode [0, 5, 0x80, 7] = some [5, 7] ∧ rleDecode [] = some [] ∧
    rleDecode [0x82] = none ∧ rleDecode [1, 5] = none ∧ rleDecode [0x83, 0x80, 0, 1] = some [0x80, 0x80, 0x80, 0x80, 0x01] := by decide +kernel

/-- V-D9, V-D12. -/
theorem test_dctqBlock :
    dctqBlock Config.defaults ((List.range 64).map fun k => BitVec.ofNat 8 (16 * (k % 8) + 8 * (k / 8))) =
      [0xFE00E5EA, 0x000000F4, 0x00000000, 0x000000FF] ∧
    dctqBlock Config.defaults ((List.range 64).map fun k => if k % 8 < 4 then 255 else 0) =
      [0xEC005400, 0x00000000, 0x00000000, 0x00000000] := by decide +kernel

/-- V-D2, V-D7, V-D16: ties and wrapping. -/
theorem test_dctqBlock_ties :
    dctqBlock Config.defaults (List.replicate 64 255) = [0x40, 0, 0, 0] ∧
    dctqBlock Config.defaults ((List.range 64).map fun k => if k % 9 = 0 then 122 else 128) = [0, 0x0000FF00, 0, 0] ∧
    dctqBlock { Config.defaults with qmatrix := Vector.replicate 16 1 } (List.replicate 64 255) = [0xF8, 0, 0, 0] := by decide +kernel

/-- V-Q1, V-Q2. -/
theorem test_rounding_and_lanes :
    lane (-129) = 0x7F ∧ lane 128 = 0x80 ∧ lane (-1024) = 0 ∧ lane 1016 = 0xF8 ∧ laneLevel 0xFF = -1 ∧ laneLevel 0x7F = 127 := by decide +kernel

/-! ### Cases that meet the hypotheses of the statements -/

theorem test_witness_DecodeEncodeRoundTrip :
    (Instr.sequenceRecord 127 (List.replicate 128 5)).wf = true ∧ (Instr.reservedCmd 4).wf = true ∧ (Instr.xformReserved 0xFFFFFFFF).wf = true ∧
    Instr.rle.wf = true := by decide +kernel

theorem test_witness_DecodedObjectIsExactlyItsBytes : decode .hdr [0xFF, 7, 9] = .ok (.repeatRecord 127 7, [9]) := by decide

theorem test_witness_HeaderAloneTellsRecordLength :
    128 ≤ (List.replicate 128 (5 : Byte)).length ∧ 128 ≤ (0x80 : Byte).toNat ∧ (0x7F : Byte).toNat < 128 ∧ (0 : Byte).toNat < 128 := by decide +kernel

theorem test_witness_StatusReadsOneOfFourValues :
    rleReady.Inv ∧ rleBusy.Inv ∧ rleDone.Inv ∧ failed.Inv ∧ (rleBusy).phase = .busy := ⟨inv_rleReady, inv_rleBusy, inv_rleDone, inv_failed, rfl⟩

/-- `CMD` while idle; `XFORM`, `BPP`, `ERRCODE`, `STATUS` while idle and in the `BUSY` window. -/
theorem test_witness_StepRunsTheDecodedRow :
    Config.wellFormed rleReady.cfg = true ∧ completionDue { rleReady with program := [lineWr .cmd 1] } = false ∧ rleReady.phase = .idle ∧
    decode .cmd (leBytes 1) = .ok (.rle, []) ∧ completionDue (inWindow [lineWr .xform 2]) = false ∧
    decode .xform (leBytes 2) = .ok (.xformRevnib, []) ∧ completionDue (inWindow [lineWr .bpp 8]) = false ∧
    decode .bpp (leBytes 8) = .ok (.bpp8, []) ∧ completionDue (inWindow [lineRd .errcode]) = false ∧
    decode .errcode (leBytes (errcodeWord failed)) = .ok (.errUnsupportedConfiguration, []) ∧
    completionDue (inWindow [lineRd .status]) = false ∧
    decode .status (leBytes (statusWord rleBusy)) = .ok (.statusBusy, []) := by decide +kernel

/-- A record and a packed word. -/
theorem test_witness_StepRunsTheDecodedRow_consumer :
    completionDue { reader with program := [.record] } = false ∧ reader.consumer.failed = false ∧
    decode .hdr (reader.consumer.array.drop reader.consumer.pos) = .ok (.repeatRecord 2 1, [0, 2, 0x81, 3]) ∧
    completionDue { rleDone with program := [.row 0] } = false ∧
    decode .qword (leBytes (bufferWord rleDone (obufBase + 4 * (0#2).toNat))) = .ok (.qword 0x82 1 0 2, []) := by decide +kernel

theorem test_witness_CompletionStepRunsTheLatchedRow :
    rleBusy.Inv ∧ completionDue rleBusy = true ∧ decode .cmd (leBytes rleBusy.curOp) = .ok (.rle, []) := ⟨inv_rleBusy, by decide +kernel⟩

/-- `CmdWriteLaunches`, `ClearClearsTheReport`, `TagsAndDepthsAreWritten`: an idle state, a busy one, the words and the places. -/
theorem test_witness_launch_cases :
    failed.phase = .idle ∧ rleBusy.phase = .busy ∧ (4 : Word) ≠ 0 ∧ (4 : Word) ≠ 3 ∧ Instr.xformRevend.place = .xform ∧
    Instr.bpp8.place = .bpp := by decide

theorem test_witness_RleCommandEncodesItsInput :
    rleReady.Inv ∧ rleReady.phase = .idle ∧ rleLegal rleReady ∧ runs.length = rleReady.len.toNat ∧
    ∀ k, k < runs.length → rleReady.mem.read (ibufBase + k) = runs[k]? :=
  ⟨inv_rleReady, rfl, by unfold rleLegal; decide +kernel, by decide, by decide +kernel⟩

/-- The empty input and the largest `LEN` are legal. -/
theorem test_witness_RleCommandEncodesItsInput_bounds :
    rleLegal { rleReady with len := 0 } ∧ rleLegal { rleReady with len := 4096, bpp := 4, xform := 3 } := by
  unfold rleLegal; decide +kernel

theorem test_witness_DctqCommandQuantizesItsBlock :
    dctqReady.Inv ∧ dctqReady.phase = .idle ∧ dctqReady.bpp = 8 ∧ diagonal.length = 64 ∧
    ∀ k, k < 64 → dctqReady.mem.read (ibufBase + k) = diagonal[k]? :=
  ⟨inv_dctqReady, rfl, rfl, by decide, by decide +kernel⟩

/-- `LEN` one more than what was written; a depth of 8 with six bytes written. -/
theorem test_witness_UnwrittenInputLeavesOutputOpen :
    ({ rleReady with len := 7 } : State).Inv ∧ rleLegal { rleReady with len := 7 } ∧ rleReady.mem.read (ibufBase + 6) = none ∧
    ({ rleReady with bpp := 8 } : State).Inv ∧ rleReady.phase = .idle ∧ rleReady.mem.read (ibufBase + 63) = none :=
  ⟨inv_of_check _ (by decide +kernel), by unfold rleLegal; decide +kernel, by decide, inv_of_check _ (by decide +kernel), rfl, by decide⟩

theorem test_witness_ReservedCommandEndsInError :
    failed.Inv ∧ failed.phase = .idle ∧ 4 ≤ (4 : Word).toNat ∧ 4 ≤ (0xFFFFFFFF : Word).toNat := ⟨inv_failed, by decide⟩

/-- One busy state per clause, each at a bound. -/
theorem test_witness_ChecksAreMadeInOrder :
    (rleBusy.phase = .busy ∧ rleBusy.curOp ≠ 0 ∧ rleBusy.curOp ≠ 3 ∧ rleBusy.err = false ∧ rleBusy.errcode = 0) ∧
    4 ≤ ({ rleBusy with curOp := 4 } : State).curOp.toNat ∧
    ({ rleBusy with bpp := 0x101 } : State).bpp ≠ 1 ∧ ({ dctqBusy with bpp := 4 } : State).bpp ≠ 8 ∧
    4 ≤ ({ rleBusy with xform := 4 } : State).xform.toNat ∧
    rleBusy.cfg.ibufSize < ({ rleBusy with xform := 3, len := 4097 } : State).len.toNat ∧
    ({ rleBusy with cfg := { rleBusy.cfg with emptyInputFaults := true }, len := 0 } : State).cfg.emptyInputFaults = true ∧
    (dctqBusy.curOp = 2 ∧ dctqBusy.bpp = 8) := by decide +kernel

theorem test_witness_ChecksAreMadeInOrder_legal : rleBusy.curOp = 1 ∧ rleLegal { rleBusy with len := 4096 } :=
  ⟨rfl, by unfold rleLegal; decide +kernel⟩

/-- An error of each kind. -/
theorem test_witness_ErrorEntryChangesTheReportOnly :
    ({ rleBusy with bpp := 2 } : State).Inv ∧ checks Config.defaults 1 2 0 6 = some .unsupportedConfiguration ∧
    ({ rleBusy with len := 4097 } : State).Inv ∧ checks Config.defaults 1 1 0 4097 = some .outOfRange ∧
    ({ rleBusy with cfg := { rleBusy.cfg with emptyInputFaults := true }, len := 0 } : State).Inv ∧
    checks { Config.defaults with emptyInputFaults := true } 1 1 0 0 = some .emptyInput ∧ rleBusy.phase = .busy :=
  ⟨inv_of_check _ (by decide +kernel), by decide +kernel, inv_of_check _ (by decide +kernel), by decide +kernel,
    inv_of_check _ (by decide +kernel), by decide +kernel, rfl⟩

theorem test_witness_ErrorReportStaysUntilCleared :
    ({ failed with program := [lineNop, lineWr .bpp 8] } : State).Inv ∧ failed.err = true ∧
    passes (step { failed with program := [lineNop, lineWr .bpp 8] }) (fun t => t.err) = true ∧
    (∀ v : Word, v ≠ 0 → ([lineNop, lineWr .bpp 8] : List Event).head? ≠ some (lineWr .cmd v)) ∧
    ([lineNop, lineWr .bpp 8] : List Event).head? ≠ some .rst := by
  refine ⟨inv_of_check _ (by decide +kernel), rfl, by decide +kernel, fun v hv h => ?_, by decide⟩
  simp [lineNop, lineWr] at h
  exact hv h.symm

theorem test_witness_BusyBlockCompletes : (inWindow [.poll]).Inv ∧ (inWindow [.poll]).phase = .busy := ⟨inv_inWindow _, rfl⟩

/-- `RLE` and `DCTQ`, the second state differing in what the command does not read. -/
theorem test_witness_ResultDependsOnDeclaredInputsOnly :
    (∀ k, k < 6 → rleBusy.mem.read (ibufBase + k) = runs[k]? ∧
      (rleBusy.mem.write 0x20000 9).read (ibufBase + k) = runs[k]?) ∧ runs.length = rleBusy.len.toNat ∧
    (∀ k, k < 64 → dctqBusy.mem.read (ibufBase + k) = diagonal[k]? ∧
      (dctqBusy.mem.write (ibufBase + 64) 9).read (ibufBase + k) = diagonal[k]?) ∧ diagonal.length = 64 ∧
    rleBusy.phase = .busy ∧ rleBusy.curOp = 1 ∧ dctqBusy.phase = .busy ∧ dctqBusy.curOp = 2 := by decide +kernel

/-- A code and a value at each end. -/
theorem test_witness_CodesAndStatusValuesAreRead :
    (Instr.errEmptyInput = .errEmptyInput ∧ (3 : Nat) = 3) ∧ (Instr.statusDoneError = .statusDoneError ∧ (6 : Word) = 6) := by decide

/-- `RegisterReadsReturn`, `RegisterWritesStore`: reserved offsets at both ends of each range, for reads and for writes (the `QM` entries are
0x40 to 0x7C), and both phases. -/
theorem test_witness_register_accesses :
    ([0x20, 0x3C, 0x80, 0xFFFC] : List (BitVec 18)).all (fun off => off.toNat % 4 == 0 &&
      decide (0x20 ≤ off.toNat ∧ off.toNat < 0x40 ∨ 0x80 ≤ off.toNat ∧ off.toNat < 0x10000)) = true ∧
    ([0x20, 0x40, 0x7C, 0x80, 0xFFFC] : List (BitVec 18)).all (fun off => off.toNat % 4 == 0 &&
      decide (0x20 ≤ off.toNat ∧ off.toNat < 0x80 ∨ 0x80 ≤ off.toNat ∧ off.toNat < 0x10000)) = true ∧
    rleReady.phase = .idle ∧ rleBusy.phase = .busy := by decide +kernel

theorem test_witness_InputBufferAccesses :
    ibufBase ≤ (0x10000 : BitVec 18).toNat ∧ (0x10FFF : BitVec 18).toNat < ibufBase + rleReady.cfg.ibufSize ∧
    (0x10FFC : BitVec 18).toNat % 4 = 0 ∧ Config.wellFormed rleReady.cfg = true ∧ rleReady.phase = .idle ∧ rleBusy.phase = .busy := by
  decide +kernel

theorem test_witness_OutputBufferAccesses :
    obufBase ≤ (0x20000 : BitVec 18).toNat ∧ (0x21FFF : BitVec 18).toNat < obufBase + obufSize rleDone.cfg ∧ rleDone.phase = .idle ∧
    Config.wellFormed rleDone.cfg = true ∧ rleDone.mem.read 0x20000 = some 0x82 ∧ rleDone.mem.read 0x20001 = some 1 ∧
    rleDone.mem.read 0x20002 = some 0 ∧ rleDone.mem.read 0x20003 = some 2 := by decide +kernel

theorem test_witness_ReservedTailsReadZero :
    Config.wellFormed rleReady.cfg = true ∧ ibufBase + rleReady.cfg.ibufSize ≤ (0x11000 : BitVec 18).toNat ∧
    (0x1FFFC : BitVec 18).toNat < obufBase ∧ (0x1FFFC : BitVec 18).toNat % 4 = 0 ∧
    obufBase + obufSize rleReady.cfg ≤ (0x22000 : BitVec 18).toNat ∧ obufBase + obufSize rleReady.cfg ≤ (0x3FFFF : BitVec 18).toNat := by
  decide +kernel

theorem test_witness_UnadmittedAccessIsRefused :
    (0x10001 : BitVec 18).toNat % 4 ≠ 0 ∧ (0x0FFFF : BitVec 18).toNat < 0x10000 ∧ (0x3FFFC : BitVec 18).toNat % 4 = 0 ∧
    inBuffers rleReady.cfg (0x10000 : BitVec 18).toNat ∧ inBuffers rleReady.cfg (0x21FFF : BitVec 18).toNat := by
  unfold inBuffers; decide +kernel

theorem test_witness_ReadsHaveNoSideEffect :
    admitted .word 0 = true ∧ admitted .byte 0x10000 = true ∧ admitted .byte 0x3FFFF = true ∧ admitted .word 0x3FFFC = true := by decide

theorem test_witness_BusyWindowDropsEveryWrite : rleBusy.Inv ∧ rleBusy.phase = .busy ∧ admitted .word 0 = true := ⟨inv_rleBusy, rfl, by decide⟩

theorem test_witness_ResetInputRestoresResetValues :
    Config.wellFormed rleBusy.cfg = true ∧ completionDue (inWindow [.rst]) = false ∧ (inWindow [.rst]).program = .rst :: [] := by
  decide +kernel

/-- `StepKeepsTheInvariant`, `EveryRowKeepsTheInvariant`, `QmTableIsConstant`, `BuffersChangeOnlyAsSpecified`,
`PhaseChangesOnlyByLaunchCompletionOrReset`: a step in the window, a launch, a completion and a reset. -/
theorem test_witness_steps :
    (inWindow [.poll]).Inv ∧ passes (step (inWindow [.poll])) (fun t => t.isBusy) = true ∧ completionDue (inWindow [.poll]) = false ∧
    (inWindow [.poll]).program.head? ≠ some .rst ∧
    passes (step { rleReady with program := [lineRle] }) (fun t => t.isBusy) = true ∧
    passes (step rleBusy) (fun t => !t.isBusy) = true ∧ passes (step (inWindow [.rst])) (fun t => !t.isBusy) = true :=
  ⟨inv_inWindow _, by decide +kernel⟩

theorem test_witness_GetBitReadsMsbFirst : 8 * ([0xB0] : List Byte).length ≤ 8 ∧ 7 < 8 * ([0xB0] : List Byte).length := by decide

/-- `ReversalsReverseTheirSequence`: the last index of each sequence. -/
theorem test_witness_reversals : 31 < 8 * (runs.take 4).length ∧ 3 < (runs.take 4).length ∧ 7 < 2 * (runs.take 4).length := by decide

theorem test_witness_TransformByTag : 4 ≤ (4 : Word).toNat ∧ (3 : Word).toNat < 4 := by decide

theorem test_witness_RunLengthsAreTheMaximalRuns :
    (3, 1) ∈ runLengths runs ∧ (runLengths runs)[0]? = some (3, 1) ∧ (runLengths runs)[1]? = some (1, 2) := by decide

theorem test_witness_TokensPartitionTheInput :
    let tokens := tokenize (runLengths runs) 1
    .rept 3 1 ∈ tokens ∧ .seq [2] ∈ tokens ∧ (1, 2) ∈ runLengths [2] ∧ tokens[1]? = some (.seq [2]) ∧ tokens[2]? = some (.rept 2 3) := by
  decide

/-- `RepeatTokenIsChunked`, `SequenceTokenIsChunked`: both sides of 128. -/
theorem test_witness_chunks :
    1 ≤ 128 ∧ 128 < 129 ∧ (List.replicate 128 (7 : Byte)).length ≤ 128 ∧ 128 < (List.replicate 129 (7 : Byte)).length := by decide +kernel

theorem test_witness_RleRoundTrip : (3 : Word).toNat < 4 := by decide

theorem test_witness_RleOutputLengthBounds :
    runs ≠ [] ∧ runs.length ≤ Config.defaults.ibufSize ∧ (∀ v, v = (9 : Byte) → [9, 9, 9, 9] = List.replicate ([9, 9, 9, 9] : List Byte).length v) ∧
    3 < ([9, 9, 9, 9] : List Byte).length ∧ ([1, 2] : List Byte)[0]? = some 1 ∧ ([1, 2] : List Byte)[1]? = some 2 := by decide

/-- Neighbours of `[1, 2]` differ. -/
theorem test_witness_RleOutputLengthBounds_distinct :
    ∀ (k : Nat) (a b : Byte), ([1, 2] : List Byte)[k]? = some a → ([1, 2] : List Byte)[k + 1]? = some b → a ≠ b := by
  intro k a b ha hb
  match k with
  | 0 =>
    obtain rfl : (1 : Byte) = a := by simpa using ha
    obtain rfl : (2 : Byte) = b := by simpa using hb
    decide
  | k + 1 => simp at hb

theorem test_witness_StreamRowsFeedTheConsumer : (Instr.sequenceRecord 127 (List.replicate 128 5)).wf = true := by decide +kernel

/-- A whole stream, and one that is cut short. -/
theorem test_witness_ConsumerRunIsTheReferenceDecoder :
    Config.wellFormed reader.cfg = true ∧ reader.phase = .idle ∧ reader.consumer.array.length ≤ 6 ∧ reader.consumer.pos = 0 ∧
    reader.consumer.out = [] ∧ reader.consumer.failed = false ∧ rleDecode reader.consumer.array = some runs ∧
    rleDecode (reader.consumer.array.take 5) = none := by decide +kernel

theorem test_witness_CoefficientsAreTruncatedDct2d :
    List.replicate 64 (136 : Byte) = List.replicate 64 136 ∧ ((1 : Fin 4) ≠ 0 ∨ (0 : Fin 4) ≠ 0) := by decide

theorem test_witness_RoundingIsHalfAwayFromZero : (0 : ℝ) ≤ 1 / 2 ∧ (-1 / 2 : ℝ) < 0 := by norm_num

/-- `LevelIsTheRoundedRealQuotient`, `QuantizerRoundTrip`: the defaults, and both ends of the parameters. -/
theorem test_witness_parameters :
    Config.wellFormed Config.defaults = true ∧
    Config.wellFormed { Config.defaults with ibufSize := 64, qmatrix := Vector.replicate 16 1 } = true ∧
    Config.wellFormed { Config.defaults with ibufSize := 65536, qmatrix := Vector.replicate 16 0xFFFFFFFF } = true := by decide +kernel

/-- Levels at both ends of the byte range. -/
theorem test_witness_QuantizerRoundTrip :
    (∀ y x : Fin 4, (-128 : Int) ≤ (fun _ _ => -128 : LevelBlock) y x ∧ (fun _ _ => -128 : LevelBlock) y x ≤ 127) ∧
    (∀ y x : Fin 4, (-128 : Int) ≤ (fun _ _ => 127 : LevelBlock) y x ∧ (fun _ _ => 127 : LevelBlock) y x ≤ 127) := by decide

theorem test_witness_PackedRowsReadBackAsWords : rleDone.phase = .idle ∧ 64 ≤ rleDone.cfg.ibufSize := by decide

end Sys2Proof.Tests
end

namespace Sys2Proof.Machine

/-! ### The encoder loses nothing and at most doubles its input (41_rle.md R91 to R103) -/

/-- The bytes a run stands for (41_rle.md R90). -/
def expandRun (r : RunPair) : List Byte := List.replicate r.1 r.2

theorem runsFrom_expand (bs : List Byte) : ∀ (n : Nat) (v : Byte),
    (runsFrom n v bs).flatMap expandRun = List.replicate n v ++ bs := by
  induction bs with
  | nil => intro n v; simp [runsFrom, expandRun]
  | cons b bs ih =>
    intro n v
    simp only [runsFrom]
    split
    · next h => simp [ih, h, List.replicate_succ']
    · simp [ih, expandRun]

/-- The runs of a byte sequence, expanded one after another, are the sequence (R91). -/
theorem runLengths_expand (s : List Byte) : (runLengths s).flatMap expandRun = s := by
  cases s with
  | nil => rfl
  | cons b bs => simp [runLengths, runsFrom_expand]

theorem flushBuf_expand (buf : List Byte) : (flushBuf buf).flatMap expandToken = buf := by
  unfold flushBuf
  split
  · next h => simp [h]
  · simp [expandToken]

theorem tokenizeFrom_expand (m : Nat) (ps : List RunPair) : ∀ buf : List Byte,
    (tokenizeFrom m buf ps).flatMap expandToken = buf ++ ps.flatMap expandRun := by
  induction ps with
  | nil => intro buf; simp [tokenizeFrom, flushBuf_expand]
  | cons p ps ih =>
    intro buf
    simp only [tokenizeFrom]
    split
    · simp [ih, flushBuf_expand, expandToken, expandRun]
    · simp [ih, expandRun]

/-- The tokens of the encoder, expanded one after another, are its input (R93). -/
theorem tokenize_runLengths_expand (s : List Byte) (m : Nat) : (tokenize (runLengths s) m).flatMap expandToken = s := by
  simp [tokenize, tokenizeFrom_expand, runLengths_expand]

/-- `n` units need at most `n` records (R97). -/
theorem chunkSizes_length_le (n : Nat) : (chunkSizes n).length ≤ n := by
  unfold chunkSizes
  split
  · simp
  · simp only [List.length_append, List.length_replicate, List.length_singleton]
    omega

theorem serRepeat_length (f : Byte → Byte) (count : Nat) (v : Byte) :
    (serRepeat f count v).length = 2 * (chunkSizes count).length := by
  simp [serRepeat, repeatRecordBytes, Nat.mul_comm]

theorem serChunks_length_le (f : Byte → Byte) (ks : List Nat) : ∀ values : List Byte,
    (serChunks f ks values).length ≤ ks.length + values.length := by
  induction ks with
  | nil => intro values; simp [serChunks]
  | cons k ks ih =>
    intro values
    have := ih (values.drop k)
    simp only [serChunks, List.length_cons, List.length_append, List.length_map, List.length_take, List.length_drop] at this ⊢
    omega

/-- A token costs at most two bytes for each byte it stands for (R95, R96). -/
theorem serToken_length_le (f : Byte → Byte) (t : RunToken) : (serToken f t).length ≤ 2 * (expandToken t).length := by
  cases t with
  | rept count v =>
    have := chunkSizes_length_le count
    simp only [serToken, serRepeat_length, expandToken, List.length_replicate]
    omega
  | seq values =>
    have := serChunks_length_le f (chunkSizes values.length) values
    have := chunkSizes_length_le values.length
    simp only [serToken, serSequence, expandToken]
    omega

theorem serialize_length_le (f : Byte → Byte) (ts : List RunToken) :
    (serialize f ts).length ≤ 2 * (ts.flatMap expandToken).length := by
  induction ts with
  | nil => simp [serialize]
  | cons t ts ih =>
    have := serToken_length_le f t
    simp only [serialize, List.flatMap_cons, List.length_append] at ih ⊢
    omega

/-- The upper bound of R103. -/
theorem rleEncode_length_le (s : List Byte) (m : Nat) (tag : Word) : (rleEncode s m tag).length ≤ 2 * s.length := by
  simpa only [rleEncode, tokenize_runLengths_expand] using serialize_length_le (xfByte tag) (tokenize (runLengths s) m)

/-! ### What the parameters, the checks and the address map give -/

/-- The bounds R5 puts on `IBUF_SIZE`. -/
theorem ibufSize_of_wellFormed {p : Params} (h : Config.wellFormed p = true) :
    p.ibufSize % 4 = 0 ∧ 64 ≤ p.ibufSize ∧ p.ibufSize ≤ 65536 := by
  simp only [Config.wellFormed, Bool.and_eq_true, beq_iff_eq, decide_eq_true_eq] at h
  tauto

/-- An `RLE` command that passes the checks reads inside `IBUF` (60_exceptions.md R161, R164). -/
theorem len_le_of_checks_none {p : Params} {bpp xform len : Word} (h : checks p 1 bpp xform len = none) :
    len.toNat ≤ p.ibufSize := by
  unfold checks at h
  split_ifs at h with _ _ _ _ hlen
  exact not_lt.1 fun hlt => hlen ⟨rfl, hlt⟩

/-- A `QM` entry stands at its offset (10_state.md R11, R20). -/
theorem regionAt_qm (p : Params) (i : Fin 16) : regionAt p (0x40 + 4 * i.val) = .reg (.qm i) := by
  have hidx : ∀ i : Fin 16, regAtIndex (16 + i.val) = .reg (.qm i) := by decide
  rw [regionAt, if_pos (by omega), show (0x40 + 4 * i.val) / 4 = 16 + i.val by omega, hidx]

theorem regAtIndex_ne_ibuf (k i : Nat) : regAtIndex k ≠ .ibuf i := by
  unfold regAtIndex
  split <;> try split
  all_goals simp

/-- An offset that names a byte of `IBUF` is in the `IBUF` window (20_memory.md R41). -/
theorem ibuf_bounds_of_regionAt {p : Params} {off i : Nat} (h : regionAt p off = .ibuf i) :
    ibufBase ≤ off ∧ off < ibufBase + p.ibufSize := by
  unfold regionAt at h
  split_ifs at h with h1 h2 h3
  · exact absurd h (regAtIndex_ne_ibuf _ _)
  · exact ⟨by omega, h3⟩

/-! ### The invariant under the shared operations -/

/-- The invariant speaks of the block alone, not of the model's own fields. -/
theorem inv_of_blockPart_eq {s t : State} (e : blockPart t = blockPart s) (h : s.Inv) : t.Inv := by
  have hs : (blockPart s).Inv := { h with }
  have ht : (blockPart t).Inv := e ▸ hs
  exact { ht with }

/-- The invariant holds after reset (10_state.md R27, 70_reset_and_hazards.md R180). -/
theorem resetWith_inv {p : Params} (hp : Config.wellFormed p = true) : (State.resetWith p).Inv where
  params := hp
  memForm := rfl
  memPlace := nofun
  busyClean := nofun
  errDone := nofun
  errCode := by simp [State.resetWith]
  noOutput _ := rfl
  outFits := Nat.zero_le _
  outStored := nofun

theorem clearReport_inv {s : State} (h : s.Inv) : (clearReport s).Inv where
  params := h.params
  memForm := h.memForm
  memPlace := h.memPlace
  busyClean hb := ⟨rfl, rfl, (h.busyClean hb).2.2⟩
  errDone := nofun
  errCode := by simp
  noOutput _ := rfl
  outFits := Nat.zero_le _
  outStored := nofun

theorem latch_clearReport_inv {s : State} {w : Word} (h : s.Inv) (h0 : w ≠ 0) (h3 : w ≠ 3) :
    (latch w (clearReport s)).Inv :=
  { clearReport_inv h with busyClean := fun _ => ⟨rfl, rfl, h0, h3⟩ }

theorem launch_inv (w : Word) {s : State} (h : s.Inv) : (launch w s).Inv := by
  rcases launch_cases w s with ⟨-, e⟩ | ⟨-, -, e⟩ | ⟨-, -, e⟩ | ⟨-, h0, h3, e⟩ <;> rw [e]
  · exact h
  · exact h
  · exact clearReport_inv h
  · exact latch_clearReport_inv h h0 h3

theorem writeReg_inv (r : Reg) (v : Word) {s : State} (h : s.Inv) : (writeReg r v s).Inv := by
  rcases writeReg_cases r v s with ⟨-, e⟩ | e | ⟨-, ⟨-, e⟩ | ⟨-, e⟩ | ⟨-, e⟩ | ⟨-, e⟩⟩ <;> rw [e]
  · exact launch_inv v h
  · exact h
  all_goals exact { h with }

/-- Bytes stored inside `IBUF` keep the invariant: the output lies in the other window (20_memory.md R41). -/
theorem storeInput_inv {s : State} {off : Nat} {bs : List Byte} (h : s.Inv) (hlo : ibufBase ≤ off)
    (hhi : off + bs.length ≤ ibufBase + s.cfg.ibufSize) : (setMem (s.mem.writeBytes off bs) s).Inv :=
  { h with
    memForm := memory_writeBytes_wf bs _ _ h.memForm
    memPlace := fun c hc => by
      rcases memory_mem_writeBytes bs _ _ c hc with hc | hc
      · exact .inl ⟨by omega, by simp only [setMem_cfg]; omega⟩
      · exact h.memPlace c hc
    outStored := fun k hk => by
      have hsize := (ibufSize_of_wellFormed h.params).2.2
      have hout : off + bs.length ≤ obufBase + k := by unfold ibufBase at hhi; unfold obufBase; omega
      rw [setMem_mem, memory_read_writeBytes_outside _ _ _ _ (.inr hout)]
      exact h.outStored k hk }

/-! ### The invariant under the completion step -/

/-- A running command has reported no error (10_state.md R13). -/
theorem err_eq_false_of_busy {s : State} (h : s.Inv) (hb : s.phase = .busy) : s.err = false := by
  by_contra he
  have hd := h.errDone (by simpa using he)
  simp [(h.busyClean hb).1] at hd

theorem errCode_ne_zero (e : ErrKind) : errCode e ≠ 0 := by cases e <;> decide

/-- An error entry keeps the invariant (60_exceptions.md R165). -/
theorem raiseError_inv (e : ErrKind) {s : State} (h : s.Inv) (hb : s.phase = .busy) : (raiseError e s).Inv := by
  obtain ⟨-, hout, -, -⟩ := h.busyClean hb
  exact { h with
    busyClean := by simp [raiseError]
    errDone := fun _ => rfl
    errCode := by simpa [raiseError] using errCode_ne_zero e
    noOutput := fun _ => hout }

theorem finish_inv {s : State} (h : s.Inv) (he : s.err = false) : (finish s).Inv :=
  { h with
    busyClean := by simp
    errDone := fun _ => rfl
    noOutput := by simp [he] }

/-- A command that has written an output no longer than `OBUF` ends in a state with the invariant (10_state.md R19, R22). -/
theorem finish_writeOutput_inv {s : State} {out : List Byte} (h : s.Inv) (hb : s.phase = .busy)
    (hfit : out.length ≤ obufSize s.cfg) : (finish (writeOutput out s)).Inv := by
  have hsize := (ibufSize_of_wellFormed h.params).2.2
  have hlen : (writeOutput out s).outlen.toNat = out.length := by
    simp only [writeOutput, setOutlen_outlen, BitVec.toNat_ofNat]
    unfold obufSize at hfit
    omega
  have he := err_eq_false_of_busy h hb
  exact { h with
    memForm := memory_writeBytes_wf out _ _ h.memForm
    memPlace := fun c hc => by
      rcases memory_mem_writeBytes out _ _ c hc with ⟨hlo, hhi⟩ | hc
      · exact .inr ⟨hlo, lt_of_lt_of_le hhi (Nat.add_le_add_left hfit _)⟩
      · exact h.memPlace c hc
    busyClean := by simp
    errDone := fun _ => rfl
    noOutput := by simp [writeOutput, he]
    outFits := hlen.trans_le hfit
    outStored := fun k hk => by
      rw [finish_outlen, hlen] at hk
      rw [finish_mem, writeOutput_read_inside out s k hk]
      simpa using hk }

theorem blockPart_finish (s : State) : blockPart (finish s) = finish (blockPart s) := rfl

theorem blockPart_writeFreeOutput (n : Nat) (s : State) :
    blockPart (writeFreeOutput n s) = blockPart (writeOutput (freeBytes s.freeIdx n) s) := rfl

/-- What the work of a command does to the block: nothing, or one output of `RLE` or of `DCTQ`, within its bound (44_commands.md R143, R144,
70_reset_and_hazards.md R185). -/
theorem commandWork_cases (s : State) :
    commandWork s = s ∨ ∃ out, blockPart (commandWork s) = blockPart (writeOutput out s) ∧
      ((s.curOp = 1 ∧ out.length ≤ 2 * s.len.toNat) ∨ (s.curOp = 2 ∧ out.length = 16)) := by
  unfold commandWork
  split_ifs with h1 h2
  · right
    rcases rleWork_cases s with ⟨bytes, hin, e⟩ | ⟨-, n, hn, e⟩ <;> rw [e]
    · have hbytes := ((memory_readBytes_eq_some _ _ _ _).1 hin).1
      exact ⟨_, rfl, .inl ⟨h1, hbytes ▸ rleEncode_length_le ..⟩⟩
    · exact ⟨_, blockPart_writeFreeOutput n (advance 1 s), .inl ⟨h1, by simpa using hn⟩⟩
  · right
    rcases dctqWork_cases s with ⟨bytes, -, e⟩ | ⟨-, e⟩ <;> rw [e]
    · exact ⟨_, rfl, .inr ⟨h2, wordBytes_dctqBlock_length ..⟩⟩
    · exact ⟨_, blockPart_writeFreeOutput 16 s, .inr ⟨h2, freeBytes_length ..⟩⟩
  · exact .inl rfl

theorem complete_inv {s : State} (h : s.Inv) (hb : s.phase = .busy) : (complete s).Inv := by
  rcases complete_cases s with ⟨e, -, he⟩ | ⟨hchecks, he⟩ <;> rw [he]
  · exact raiseError_inv e h hb
  · rcases commandWork_cases s with hw | ⟨out, hw, hout⟩
    · rw [hw]
      exact finish_inv h (err_eq_false_of_busy h hb)
    · have hfit : out.length ≤ obufSize s.cfg := by
        unfold obufSize
        rcases hout with ⟨hop, hout⟩ | ⟨-, hout⟩
        · have := len_le_of_checks_none (hop ▸ hchecks)
          omega
        · have := (ibufSize_of_wellFormed h.params).2.1
          omega
      exact inv_of_blockPart_eq (by simp only [blockPart_finish, hw]) (finish_writeOutput_inv h hb hfit)

theorem cfg_eq_of_blockPart_eq {s t : State} (e : blockPart t = blockPart s) : t.cfg = s.cfg := (congrArg State.cfg e :)

theorem phase_eq_of_blockPart_eq {s t : State} (e : blockPart t = blockPart s) : t.phase = s.phase := (congrArg State.phase e :)

theorem mem_eq_of_blockPart_eq {s t : State} (e : blockPart t = blockPart s) : t.mem = s.mem := (congrArg State.mem e :)

/-! ### What a row of the table can do -/

/-- A command row completes the running command, or is a launch, or is dropped. -/
theorem runCommand_effect (op : Word) (s : State) :
    (s.phase = .busy ∧ runCommand op s = complete s) ∨ (∃ r v, runCommand op s = writeReg r v s) ∨
      blockPart (runCommand op s) = blockPart s := by
  rcases runCommand_cases op s with ⟨hb, -, e⟩ | ⟨-, -, e⟩ | ⟨-, e⟩
  · exact .inl ⟨hb, e⟩
  · exact .inr (.inr (congrArg blockPart e))
  · exact .inr (.inl ⟨.cmd, op, e⟩)

/-- A row that is a value read leaves the block alone (44_commands.md R147). -/
theorem readAndMatch_blockPart (r : Reg) (v : Word) (s : State) :
    blockPart (setMatch (regValue r s == v) (readReg r s)) = blockPart s := rfl

/-- Every row answers a next state: the completion of the running command, a register write, or the same block. -/
theorem exec_cases (i : Instr) (s : State) : ∃ t, exec i s = .next t ∧
    ((i.place = .cmd ∧ s.phase = .busy ∧ t = complete s) ∨ (∃ r v, t = writeReg r v s) ∨ blockPart t = blockPart s) := by
  cases i with
  | rle | dctq | reservedCmd => exact ⟨_, rfl, (runCommand_effect _ s).imp_left (⟨rfl, ·⟩)⟩
  | nop | clear => exact ⟨_, rfl, .inr (.inl ⟨.cmd, _, rfl⟩)⟩
  | xformNone | xformRevbits | xformRevnib | xformRevend | xformReserved => exact ⟨_, rfl, .inr (.inl ⟨.xform, _, rfl⟩)⟩
  | bpp1 | bpp4 | bpp8 => exact ⟨_, rfl, .inr (.inl ⟨.bpp, _, rfl⟩)⟩
  | errNone | errOutOfRange | errUnsupportedConfiguration | errEmptyInput =>
    exact ⟨_, rfl, .inr (.inr (readAndMatch_blockPart .errcode _ s))⟩
  | statusIdleNothingFinished | statusBusy | statusDoneOk | statusDoneError =>
    exact ⟨_, rfl, .inr (.inr (readAndMatch_blockPart .status _ s))⟩
  | repeatRecord | sequenceRecord | qword => exact ⟨_, rfl, .inr (.inr rfl)⟩

/-! ### What the step's action can be -/

/-- The actions other than the completion step and the reset: a command row among them meets an idle block, so it launches. -/
def HostAction (p : Phase) : Action → Prop
  | .instr i => i.place = .cmd → p = .idle
  | .complete | .reset => False
  | .wait | .access _ | .dumpByte _ | .cut => True

theorem decodeXform_place (w : Word) : (decodeXform w).place = .xform := by
  unfold decodeXform
  split_ifs <;> rfl

theorem decodeBpp_place {w : Word} {i : Instr} (h : (decodeBpp w).toOption = some i) : i.place = .bpp := by
  unfold decodeBpp at h
  split_ifs at h <;> cases h <;> rfl

theorem decodeErrcode_place {w : Word} {i : Instr} (h : (decodeErrcode w).toOption = some i) : i.place = .errcode := by
  unfold decodeErrcode at h
  split_ifs at h <;> cases h <;> rfl

theorem decodeStatus_place {w : Word} {i : Instr} (h : (decodeStatus w).toOption = some i) : i.place = .status := by
  unfold decodeStatus at h
  split_ifs at h <;> cases h <;> rfl

theorem decodeHdr_place {bs rest : List Byte} {i : Instr} (h : decodeHdr bs = .ok (i, rest)) : i.place = .hdr := by
  unfold decodeHdr at h
  split at h
  · cases h
  · split at h
    · split at h <;> cases h
      rfl
    · dsimp only at h
      split at h <;> cases h
      rfl

/-- A host access carries a command row only while the block is idle (70_reset_and_hazards.md R183). -/
theorem accessInstr_command_idle {a : Access} {s : State} {i : Instr} (h : accessInstr a s = some i) (hp : i.place = .cmd) :
    s.phase = .idle := by
  unfold accessInstr at h
  split at h
  · split_ifs at h with _ hb
    · exact (isBusy_eq_false s).1 (by simpa using hb)
    · cases h
      simp [decodeXform_place] at hp
    · simp [decodeBpp_place h] at hp
  · split_ifs at h
    · simp [decodeStatus_place h] at hp
    · simp [decodeErrcode_place h] at hp
  all_goals cases h

theorem accessAction_host (a : Access) (s : State) : HostAction s.phase (accessAction a s) := by
  unfold accessAction
  split
  · next h => exact accessInstr_command_idle h
  · trivial

theorem recordAction_host (c : Consumer) (p : Phase) : HostAction p (recordAction c) := by
  unfold recordAction
  split_ifs
  · trivial
  · trivial
  · split
    · next h => exact fun hp => by simp [decodeHdr_place h] at hp
    · trivial

/-- The step's action is the completion step when that is due, the reset when the host asserts it, and else an action of the host. -/
theorem fetch_cases (s : State) :
    (completionDue s = true ∧ fetch s = (.complete, s)) ∨
    (completionDue s = false ∧ s.program.head? = some .rst ∧ (fetch s).1 = .reset) ∨
    (completionDue s = false ∧ HostAction s.phase (fetch s).1) := by
  unfold fetch
  cases hd : completionDue s with
  | true => exact .inl ⟨rfl, rfl⟩
  | false =>
    refine .inr ?_
    rcases s.program with _ | ⟨e, rest⟩
    · exact .inr ⟨rfl, trivial⟩
    · cases e with
      | rst => exact .inl ⟨rfl, rfl, rfl⟩
      | access a => exact .inr ⟨rfl, accessAction_host a s⟩
      | poll => exact .inr ⟨rfl, accessAction_host readStatus s⟩
      | record => exact .inr ⟨rfl, recordAction_host s.consumer s.phase⟩
      | row y => exact .inr ⟨rfl, fun hp => by cases hp⟩
      | dump k n =>
        refine .inr ⟨rfl, ?_⟩
        simp only [Bool.false_eq_true, if_false]
        split_ifs <;> trivial

/-- Fetching takes an event off the host's program and leaves the block alone. -/
theorem fetch_blockPart (s : State) : blockPart (fetch s).2 = blockPart s := by
  unfold fetch
  split
  · rfl
  · split
    case h_5 k n rest _ => split_ifs <;> rfl
    all_goals rfl

/-! ### What an action of the host can do to the block -/

/-- What an action of the host can do to the block: nothing, a register write, or bytes stored in `IBUF` while the block is idle
(44_commands.md R148, R149). -/
inductive HostEffect (s : State) : State → Prop
  | same {t : State} (h : blockPart t = blockPart s) : HostEffect s t
  | register (r : Reg) (v : Word) : HostEffect s (writeReg r v s)
  | store (off : Nat) (bs : List Byte) (hidle : s.phase = .idle) (hlo : ibufBase ≤ off)
      (hhi : off + bs.length ≤ ibufBase + s.cfg.ibufSize) : HostEffect s (setMem (s.mem.writeBytes off bs) s)

/-- A row that does not complete a command. -/
theorem exec_effect {i : Instr} {s t : State} (hi : i.place = .cmd → s.phase = .idle) (h : exec i s = .next t) :
    HostEffect s t := by
  obtain ⟨u, hu, hcases⟩ := exec_cases i s
  obtain rfl : u = t := by simpa [hu] using h
  rcases hcases with ⟨hp, hb, -⟩ | ⟨r, v, rfl⟩ | hsame
  · simp [hi hp] at hb
  · exact .register r v
  · exact .same hsame

/-- An admitted write: the words of `IBUF` tile it, because `IBUF_SIZE` is a multiple of 4 (00_scope.md R5). -/
theorem writeAt_effect {w : Width} {off : Nat} (v : Word) {s : State} (hcfg : Config.wellFormed s.cfg = true)
    (hadm : admitted w off = true) : HostEffect s (writeAt w off v s) := by
  unfold writeAt
  split
  · exact .register _ v
  · exact .same rfl
  · next hreg =>
    obtain ⟨hlo, hhi⟩ := ibuf_bounds_of_regionAt hreg
    obtain ⟨hsize, -, -⟩ := ibufSize_of_wellFormed hcfg
    have store (bs : List Byte) (hfit : off + bs.length ≤ ibufBase + s.cfg.ibufSize) : HostEffect s (writeInput off bs s) := by
      unfold writeInput
      split_ifs with hb
      · exact .same rfl
      · exact .store off bs ((isBusy_eq_false s).1 (by simpa using hb)) hlo hfit
    cases w with
    | byte => exact store [laneByte v 0] hhi
    | half => simp [admitted] at hadm
    | word =>
      refine store (leBytes v) ?_
      simp only [admitted, beq_iff_eq] at hadm
      simp only [leBytes, List.length_cons, List.length_nil]
      unfold ibufBase at hhi ⊢
      omega
  · exact .same rfl

theorem access_effect {a : Access} {s t : State} (hcfg : Config.wellFormed s.cfg = true) (h : access a s = .next t) :
    HostEffect s t := by
  rcases access_cases a s with ⟨w, off, -, -, e⟩ | ⟨w, off, v, -, hadm, e⟩ | e <;> rw [e] at h <;> cases h
  · exact .same (readAt_blockPart w off.toNat s)
  · exact writeAt_effect v hcfg hadm

theorem dumpByte_blockPart {k : Nat} {s t : State} (h : dumpByte k s = .next t) : blockPart t = blockPart s := by
  unfold dumpByte at h
  split_ifs at h
  cases h
  exact readAt_blockPart .byte (obufBase + k) s

theorem perform_effect {a : Action} {s t : State} (hcfg : Config.wellFormed s.cfg = true) (ha : HostAction s.phase a)
    (h : perform a s = .next t) : HostEffect s t := by
  cases a with
  | instr i => exact exec_effect ha h
  | access a => exact access_effect hcfg h
  | dumpByte k => exact .same (dumpByte_blockPart h)
  | wait => cases h; exact .same rfl
  | cut => cases h; exact .same rfl
  | complete => exact ha.elim
  | reset => exact ha.elim

/-- What a step can do: the completion step, the reset, or an action of the host, on the state the fetch answers. -/
theorem step_cases {s t : State} (h : step s = .next t) : Config.wellFormed s.cfg = true ∧
    ((completionDue s = true ∧ t = complete s) ∨
     (completionDue s = false ∧ s.program.head? = some .rst ∧ t = applyReset (fetch s).2) ∨
     (completionDue s = false ∧ HostEffect (fetch s).2 t)) := by
  have hcfg : Config.wellFormed s.cfg = true := by
    by_contra hcfg
    simp [step, hcfg] at h
  refine ⟨hcfg, ?_⟩
  have hblock := fetch_blockPart s
  rw [step_eq_perform s hcfg] at h
  rcases fetch_cases s with ⟨hdue, e⟩ | ⟨hdue, hrst, e⟩ | ⟨hdue, ha⟩
  · rw [e] at h
    cases h
    exact .inl ⟨hdue, rfl⟩
  · rw [e] at h
    cases h
    exact .inr (.inl ⟨hdue, hrst, rfl⟩)
  · have hfcfg : (fetch s).2.cfg = s.cfg := cfg_eq_of_blockPart_eq hblock
    have hphase : (fetch s).2.phase = s.phase := phase_eq_of_blockPart_eq hblock
    exact .inr (.inr ⟨hdue, perform_effect (hfcfg ▸ hcfg) (hphase ▸ ha) h⟩)

/-! ### The parameters never change (00_scope.md R5, 10_state.md R20) -/

@[simp] theorem launch_cfg (w : Word) (s : State) : (launch w s).cfg = s.cfg := by
  rcases launch_cases w s with ⟨-, e⟩ | ⟨-, -, e⟩ | ⟨-, -, e⟩ | ⟨-, -, -, e⟩ <;> simp [e]

@[simp] theorem writeReg_cfg (r : Reg) (v : Word) (s : State) : (writeReg r v s).cfg = s.cfg := by
  rcases writeReg_cases r v s with ⟨-, e⟩ | e | ⟨-, ⟨-, e⟩ | ⟨-, e⟩ | ⟨-, e⟩ | ⟨-, e⟩⟩ <;> simp [e]

@[simp] theorem commandWork_cfg (s : State) : (commandWork s).cfg = s.cfg := by
  rcases commandWork_cases s with e | ⟨out, e, -⟩
  · rw [e]
  · exact (cfg_eq_of_blockPart_eq e).trans rfl

@[simp] theorem complete_cfg (s : State) : (complete s).cfg = s.cfg := by
  rcases complete_cases s with ⟨e, -, he⟩ | ⟨-, he⟩ <;> rw [he]
  · rfl
  · exact commandWork_cfg s

theorem HostEffect.cfg {s t : State} (h : HostEffect s t) : t.cfg = s.cfg := by
  cases h with
  | same h => exact cfg_eq_of_blockPart_eq h
  | register r v => exact writeReg_cfg r v s
  | store => rfl

theorem step_cfg {s t : State} (h : step s = .next t) : t.cfg = s.cfg := by
  have hfetch : (fetch s).2.cfg = s.cfg := cfg_eq_of_blockPart_eq (fetch_blockPart s)
  obtain ⟨-, ⟨-, rfl⟩ | ⟨-, -, rfl⟩ | ⟨-, heff⟩⟩ := step_cases h
  · exact complete_cfg s
  · exact hfetch
  · exact heff.cfg.trans hfetch

/-! ### Which bytes of the buffers change (44_commands.md R149, R151) -/

@[simp] theorem launch_mem (w : Word) (s : State) : (launch w s).mem = s.mem := by
  rcases launch_cases w s with ⟨-, e⟩ | ⟨-, -, e⟩ | ⟨-, -, e⟩ | ⟨-, -, -, e⟩ <;> simp [e]

@[simp] theorem writeReg_mem (r : Reg) (v : Word) (s : State) : (writeReg r v s).mem = s.mem := by
  rcases writeReg_cases r v s with ⟨-, e⟩ | e | ⟨-, ⟨-, e⟩ | ⟨-, e⟩ | ⟨-, e⟩ | ⟨-, e⟩⟩ <;> simp [e]

/-- The completion step stores in `OBUF` alone. -/
theorem complete_read_below {a : Nat} (s : State) (ha : a < obufBase) : (complete s).mem.read a = s.mem.read a := by
  rcases complete_cases s with ⟨e, -, he⟩ | ⟨-, he⟩ <;> rw [he]
  · rfl
  · rw [finish_mem]
    rcases commandWork_cases s with e | ⟨out, e, -⟩
    · rw [e]
    · rw [mem_eq_of_blockPart_eq e]
      exact writeOutput_read_outside out s a fun hin => Nat.not_le.2 ha hin.1

/-- An action of the host stores in `IBUF` alone. -/
theorem HostEffect.read_obuf {s t : State} {a : Nat} (h : HostEffect s t) (hcfg : Config.wellFormed s.cfg = true)
    (ha : obufBase ≤ a) : t.mem.read a = s.mem.read a := by
  cases h with
  | same h => rw [mem_eq_of_blockPart_eq h]
  | register r v => rw [writeReg_mem]
  | store off bs _ hlo hhi =>
    have hsize := (ibufSize_of_wellFormed hcfg).2.2
    have hout : off + bs.length ≤ a := by unfold ibufBase at hhi; unfold obufBase at ha; omega
    exact memory_read_writeBytes_outside bs s.mem off a (.inr hout)

/-! ### The invariant under rows and steps -/

theorem HostEffect.inv {s t : State} (h : HostEffect s t) (hs : s.Inv) : t.Inv := by
  cases h with
  | same h => exact inv_of_blockPart_eq h hs
  | register r v => exact writeReg_inv r v hs
  | store off bs _ hlo hhi => exact storeInput_inv hs hlo hhi

theorem applyReset_inv {s : State} (h : s.Inv) : (applyReset s).Inv :=
  inv_of_blockPart_eq (s := State.resetWith s.cfg) rfl (resetWith_inv h.params)

theorem phase_busy_of_completionDue {s : State} (h : completionDue s = true) : s.phase = .busy := by
  unfold completionDue at h
  exact (isBusy_eq_true s).1 (Bool.and_eq_true_iff.1 h).1

/-! ### The statements about the state (10_state.md) -/

/-- Settles O31: the default parameters are legal and every register is 0. -/
theorem resetStateHasTheInvariant : Obligations.ResetStateHasTheInvariant := by
  unfold Obligations.ResetStateHasTheInvariant
  exact ⟨resetWith_inv (by decide), by decide⟩

/-- Settles O32, by what a step can do. -/
theorem stepKeepsTheInvariant : Obligations.StepKeepsTheInvariant := by
  unfold Obligations.StepKeepsTheInvariant
  intro s t hs h
  have hfetch : (fetch s).2.Inv := inv_of_blockPart_eq (fetch_blockPart s) hs
  obtain ⟨-, ⟨hdue, rfl⟩ | ⟨-, -, rfl⟩ | ⟨-, heff⟩⟩ := step_cases h
  · exact complete_inv hs (phase_busy_of_completionDue hdue)
  · exact applyReset_inv hfetch
  · exact heff.inv hfetch

/-- Settles O33, by what a row can do. -/
theorem everyRowKeepsTheInvariant : Obligations.EveryRowKeepsTheInvariant := by
  unfold Obligations.EveryRowKeepsTheInvariant
  intro i s hs
  obtain ⟨t, ht, ⟨-, hb, rfl⟩ | ⟨r, v, rfl⟩ | hsame⟩ := exec_cases i s
  · exact ⟨_, ht, complete_inv hs hb, complete_cfg s⟩
  · exact ⟨_, ht, writeReg_inv r v hs, writeReg_cfg r v s⟩
  · exact ⟨t, ht, inv_of_blockPart_eq hsame hs, cfg_eq_of_blockPart_eq hsame⟩

/-- Settles O34: a `QM` offset is a register that reads its weight and ignores writes, and a step keeps the parameters. -/
theorem qmTableIsConstant : Obligations.QmTableIsConstant := by
  unfold Obligations.QmTableIsConstant
  refine ⟨fun s y x v => ?_, fun s t h => congrArg Params.qmatrix (step_cfg h)⟩
  have hi : 4 * y.val + x.val < 16 := by omega
  have hoff : (BitVec.ofNat 18 (0x40 + 4 * (4 * y.val + x.val))).toNat = 0x40 + 4 * (4 * y.val + x.val) := by
    rw [BitVec.toNat_ofNat, Nat.mod_eq_of_lt (by omega)]
  have hadm : admitted .word (0x40 + 4 * (4 * y.val + x.val)) = true := by
    simp only [admitted, beq_iff_eq]
    omega
  have hreg := regionAt_qm s.cfg ⟨4 * y.val + x.val, hi⟩
  simp only [access, hoff, hadm, readAt, writeAt, hreg, if_true]
  exact ⟨⟨_, rfl, rfl⟩, rfl⟩

/-- Settles O35: a completion step stores in `OBUF` alone, an action of the host in `IBUF` alone. -/
theorem buffersChangeOnlyAsSpecified : Obligations.BuffersChangeOnlyAsSpecified := by
  unfold Obligations.BuffersChangeOnlyAsSpecified
  constructor
  · intro i s
    obtain ⟨t, ht, ⟨-, -, rfl⟩ | ⟨r, v, rfl⟩ | hsame⟩ := exec_cases i s
    · exact ⟨_, ht, fun a ha => complete_read_below s ha⟩
    · exact ⟨_, ht, fun a _ => by rw [writeReg_mem]⟩
    · exact ⟨t, ht, fun a _ => by rw [mem_eq_of_blockPart_eq hsame]⟩
  · intro s t hs h hdue hrst a ha
    have hfetch := fetch_blockPart s
    obtain ⟨-, ⟨hdue', -⟩ | ⟨-, hrst', -⟩ | ⟨-, heff⟩⟩ := step_cases h
    · simp [hdue] at hdue'
    · exact absurd hrst' hrst
    · have hcfg := (inv_of_blockPart_eq hfetch hs).params
      rw [heff.read_obuf hcfg ha, mem_eq_of_blockPart_eq hfetch]

end Sys2Proof.Machine

namespace Sys2Proof.Machine

/-! ### Host accesses at the port (20_memory.md R41 to R44) -/

theorem access_read_of_admitted {w : Width} {off : BitVec 18} (s : State) (h : admitted w off.toNat = true) :
    access (.read w off) s = .next (readAt w off.toNat s) := if_pos h

theorem access_write_of_admitted {w : Width} {off : BitVec 18} (v : Word) (s : State) (h : admitted w off.toNat = true) :
    access (.write w off v) s = .next (writeAt w off.toNat v s) := if_pos h

theorem access_read_of_not_admitted {w : Width} {off : BitVec 18} (s : State) (h : ¬ admitted w off.toNat = true) :
    access (.read w off) s = .refused .notAdmitted := if_neg h

theorem access_write_of_not_admitted {w : Width} {off : BitVec 18} (v : Word) (s : State) (h : ¬ admitted w off.toNat = true) :
    access (.write w off v) s = .refused .notAdmitted := if_neg h

@[simp] theorem admitted_byte (off : Nat) : admitted .byte off = true ↔ ibufBase ≤ off := decide_eq_true_iff

@[simp] theorem admitted_half (off : Nat) : admitted .half off = false := rfl

@[simp] theorem admitted_word (off : Nat) : admitted .word off = true ↔ off % 4 = 0 := beq_iff_eq

/-- Both buffer windows lie above the registers (20_memory.md R41). -/
theorem ibufBase_le_of_inBuffers {p : Params} {a : Nat} (h : inBuffers p a) : ibufBase ≤ a := by
  unfold inBuffers at h
  unfold ibufBase obufBase at *
  omega

/-- A host read is outside the host's program and the consumer. -/
theorem readAt_program_consumer (w : Width) (off : Nat) (s : State) :
    (readAt w off s).program = s.program ∧ (readAt w off s).consumer = s.consumer := by
  unfold readAt
  split
  · exact ⟨rfl, rfl⟩
  · exact ⟨rfl, rfl⟩
  · split <;> exact ⟨rfl, rfl⟩
  · split <;> exact ⟨rfl, rfl⟩

/-- The offset lies behind `IBUF` or behind `OBUF` in that buffer's window (20_memory.md R41). -/
def inReservedTail (p : Params) (off : Nat) : Prop :=
  ibufBase + p.ibufSize ≤ off ∧ off < obufBase ∨ obufBase + obufSize p ≤ off

theorem ibufBase_le_of_inReservedTail {p : Params} {off : Nat} (h : inReservedTail p off) : ibufBase ≤ off := by
  unfold inReservedTail at h
  unfold ibufBase obufBase at *
  omega

/-- The tails are reserved: `IBUF` ends at or before the `OBUF` window, because `IBUF_SIZE` is at most 65536 (00_scope.md R5). -/
theorem regionAt_reservedTail {p : Params} {off : Nat} (hp : Config.wellFormed p = true) (h : inReservedTail p off) :
    regionAt p off = .reserved := by
  obtain ⟨-, -, hmax⟩ := ibufSize_of_wellFormed hp
  have hlow := ibufBase_le_of_inReservedTail h
  have hibuf : ¬ off < ibufBase + p.ibufSize := by
    unfold inReservedTail at h
    unfold ibufBase obufBase at *
    omega
  have hreg : ¬ off < 0x80 := by unfold ibufBase at hlow; omega
  unfold regionAt
  rw [if_neg hreg, if_neg (by omega), if_neg hibuf]
  rcases h with ⟨-, hend⟩ | hstart
  · exact if_pos hend
  · rw [if_neg (by omega), if_neg (by omega)]

theorem readAt_of_reserved {w : Width} {off : Nat} {s : State} (h : regionAt s.cfg off = .reserved) :
    readAt w off s = setRead 0 s := by
  rw [readAt, h]

theorem writeAt_of_reserved {w : Width} {off : Nat} {v : Word} {s : State} (h : regionAt s.cfg off = .reserved) :
    writeAt w off v s = s := by
  rw [writeAt, h]

/-! ### Words decoded from their four bytes (20_memory.md R42, 30_encoding.md R60) -/

/-- The four lanes of a word make the word again. -/
@[simp] theorem leWord_laneBytes (w : Word) : leWord (laneByte w 0) (laneByte w 1) (laneByte w 2) (laneByte w 3) = w := by
  unfold leWord laneByte
  rw [BitVec.extractLsb'_append_extractLsb'_eq_extractLsb' (by rfl), BitVec.extractLsb'_append_extractLsb'_eq_extractLsb' (by rfl),
    BitVec.extractLsb'_append_extractLsb'_eq_extractLsb' (by rfl)]
  exact BitVec.extractLsb'_eq_self

@[simp] theorem takeWord_leBytes (w : Word) : takeWord (leBytes w) = .ok (w, []) := by
  simp [leBytes, takeWord]

/-- Four bytes that decode at a word's place are the object of that word. -/
theorem decodeWord_of_decode_leBytes {p : Place} {w : Word} {i : Instr} (hp : p ≠ .hdr)
    (h : decode p (leBytes w) = .ok (i, [])) : decodeWord p w = .ok i := by
  rw [decode, if_neg hp, takeWord_leBytes] at h
  cases hw : decodeWord p w with
  | error e => simp [hw] at h
  | ok j => simpa [hw] using h

/-! ### The step that runs a row (20_memory.md R46) -/

/-- The access carries the row that the word `w` decodes to at place `p`, if it decodes there. -/
def Carries (a : Access) (s : State) (p : Place) (w : Word) : Prop := accessInstr a s = (decodeWord p w).toOption

theorem writeCmd_carries {s : State} (v : Word) (hidle : s.phase = .idle) :
    Carries (.write .word (regOffset .cmd) v) s .cmd v := by
  simp [Carries, accessInstr, (isBusy_eq_false s).2 hidle, decodeWord, Except.toOption]

theorem writeXform_carries (s : State) (v : Word) : Carries (.write .word (regOffset .xform) v) s .xform v := rfl

theorem writeBpp_carries (s : State) (v : Word) : Carries (.write .word (regOffset .bpp) v) s .bpp v := rfl

theorem readErrcode_carries (s : State) : Carries (.read .word (regOffset .errcode)) s .errcode (errcodeWord s) := rfl

theorem readStatus_carries (s : State) : Carries (.read .word (regOffset .status)) s .status (statusWord s) := rfl

/-- An access that carries a word's row is carried out as that row. -/
theorem step_of_carries {s : State} {a : Access} {rest : List Event} {p : Place} {w : Word} {i : Instr}
    (hcfg : Config.wellFormed s.cfg = true) (hdue : completionDue s = false) (hprog : s.program = .access a :: rest)
    (hcarries : Carries a s p w) (hp : p ≠ .hdr) (h : decode p (leBytes w) = .ok (i, [])) :
    step s = exec i (popTo rest s) := by
  have hrow : accessInstr a s = some i := by
    rw [hcarries, decodeWord_of_decode_leBytes hp h]
    rfl
  have hfetch : fetch s = (.instr i, popTo rest s) := by simp [fetch, hdue, hprog, accessAction, hrow]
  rw [step_eq_perform s hcfg, hfetch]
  rfl

/-- A consumer that has not failed and has a whole record before it takes that record (41_rle.md R101). -/
theorem recordAction_of_decode {c : Consumer} {i : Instr} {more : List Byte} (hok : c.failed = false)
    (h : decode .hdr (c.array.drop c.pos) = .ok (i, more)) : recordAction c = .instr i := by
  have hhdr : decodeHdr (c.array.drop c.pos) = .ok (i, more) := h
  have hmore : ¬ c.array.length ≤ c.pos := fun hend => by
    rw [List.drop_eq_nil_of_le hend] at hhdr
    cases hhdr
  simp [recordAction, hok, hmore, hhdr]

theorem step_of_record {s : State} {rest : List Event} {i : Instr} (hcfg : Config.wellFormed s.cfg = true)
    (hdue : completionDue s = false) (hprog : s.program = .record :: rest) (hrow : recordAction s.consumer = .instr i) :
    step s = exec i (popTo rest s) := by
  have hfetch : fetch s = (.instr i, popTo rest s) := by simp [fetch, hdue, hprog, hrow]
  rw [step_eq_perform s hcfg, hfetch]
  rfl

theorem step_of_row {s : State} {rest : List Event} {y : BitVec 2} {i : Instr} (hcfg : Config.wellFormed s.cfg = true)
    (hdue : completionDue s = false) (hprog : s.program = .row y :: rest)
    (h : decode .qword (leBytes (bufferWord s (obufBase + 4 * y.toNat))) = .ok (i, [])) :
    step s = exec i (advance 4 (popTo rest s)) := by
  obtain rfl : decodeQword (bufferWord s (obufBase + 4 * y.toNat)) = i :=
    Except.ok.inj (decodeWord_of_decode_leBytes (by decide) h)
  have hfetch : fetch s = (.instr (decodeQword (bufferWord s (obufBase + 4 * y.toNat))), advance 4 (popTo rest s)) := by
    simp [fetch, hdue, hprog]
  rw [step_eq_perform s hcfg, hfetch]
  rfl

/-! ### The statements about the memory and the port (20_memory.md) -/

/-- Settles O6: each event's row, read from its word at its place, is the row the step's fetch answers. -/
theorem stepRunsTheDecodedRow : Obligations.StepRunsTheDecodedRow := by
  unfold Obligations.StepRunsTheDecodedRow
  intro s rest i hcfg hdue
  refine ⟨fun v hidle hprog => ?_, fun v hprog => ?_, fun v hprog => ?_, fun hprog => ?_, fun hprog => ?_,
    fun hprog hok ⟨more, h⟩ => ?_, fun y hprog => ?_⟩
  · exact step_of_carries hcfg hdue hprog (writeCmd_carries v hidle) (by decide)
  · exact step_of_carries hcfg hdue hprog (writeXform_carries s v) (by decide)
  · exact step_of_carries hcfg hdue hprog (writeBpp_carries s v) (by decide)
  · exact step_of_carries hcfg hdue hprog (readErrcode_carries s) (by decide)
  · exact step_of_carries hcfg hdue hprog (readStatus_carries s) (by decide)
  · exact step_of_record hcfg hdue hprog (recordAction_of_decode hok h)
  · exact step_of_row hcfg hdue hprog

/-- Settles O26: both tails are reserved offsets that R43 admits. -/
theorem reservedTailsReadZero : Obligations.ReservedTailsReadZero := by
  unfold Obligations.ReservedTailsReadZero
  intro s off w v hcfg hw htail
  have hadm : admitted w off.toNat = true := by
    rcases hw with rfl | ⟨rfl, halign⟩
    · exact (admitted_byte _).2 (ibufBase_le_of_inReservedTail htail)
    · exact (admitted_word _).2 halign
  have hreg := regionAt_reservedTail hcfg htail
  rw [access_read_of_admitted s hadm, access_write_of_admitted v s hadm, readAt_of_reserved hreg, writeAt_of_reserved hreg]
  exact ⟨rfl, rfl⟩

/-- Settles O27, by width. -/
theorem unadmittedAccessIsRefused : Obligations.UnadmittedAccessIsRefused := by
  unfold Obligations.UnadmittedAccessIsRefused
  intro s w off v
  constructor
  · intro h
    have hadm : ¬ admitted w off.toNat = true := by
      rcases h with rfl | ⟨rfl, halign⟩ | ⟨rfl, hlow⟩
      · simp
      · simpa using halign
      · simpa [ibufBase] using hlow
    exact ⟨access_read_of_not_admitted s hadm, access_write_of_not_admitted v s hadm⟩
  · intro h
    have hadm : admitted w off.toNat = true := by
      rcases h with ⟨rfl, halign⟩ | ⟨rfl, hbuf⟩
      · exact (admitted_word _).2 halign
      · exact (admitted_byte _).2 (ibufBase_le_of_inBuffers hbuf)
    exact ⟨⟨_, access_read_of_admitted s hadm⟩, ⟨_, access_write_of_admitted v s hadm⟩⟩

/-- Settles O28: a read sets only the data it returns and the counter of the free values. -/
theorem readsHaveNoSideEffect : Obligations.ReadsHaveNoSideEffect := by
  unfold Obligations.ReadsHaveNoSideEffect
  intro s w off hadm
  exact ⟨_, access_read_of_admitted s hadm, readAt_blockPart w off.toNat s, readAt_program_consumer w off.toNat s⟩

end Sys2Proof.Machine

namespace Sys2Proof.Machine

/-! ### Words and their four bytes (20_memory.md R42) -/

/-- A byte above the lowest one of an append is a byte of the upper part. -/
theorem extractByte_append_byte {n : Nat} (hi : BitVec n) (lo : Byte) (k : Nat) :
    (hi ++ lo).extractLsb' (k + 8) 8 = hi.extractLsb' k 8 := by
  simp [BitVec.extractLsb'_append_eq_of_le]

@[simp] theorem leBytes_leWord (b0 b1 b2 b3 : Byte) : leBytes (leWord b0 b1 b2 b3) = [b0, b1, b2, b3] := by
  have h0 : laneByte (leWord b0 b1 b2 b3) 0 = b0 := BitVec.extractLsb'_append_eq_right
  have h1 : laneByte (leWord b0 b1 b2 b3) 1 = b1 :=
    (extractByte_append_byte _ b0 0).trans BitVec.extractLsb'_append_eq_right
  have h2 : laneByte (leWord b0 b1 b2 b3) 2 = b2 :=
    ((extractByte_append_byte _ b0 8).trans (extractByte_append_byte _ b1 0)).trans BitVec.extractLsb'_append_eq_right
  have h3 : laneByte (leWord b0 b1 b2 b3) 3 = b3 :=
    ((extractByte_append_byte _ b0 16).trans (extractByte_append_byte _ b1 8)).trans BitVec.extractLsb'_append_eq_left
  simp [leBytes, h0, h1, h2, h3]

/-- The next word of a byte list is the one whose four bytes it begins with. -/
theorem takeWord_eq_ok_iff {bytes rest : List Byte} {w : Word} :
    takeWord bytes = .ok (w, rest) ↔ leBytes w ++ rest = bytes := by
  constructor
  · intro h
    unfold takeWord at h
    split at h
    · cases h
      simp
    · cases h
  · rintro rfl
    simp [leBytes, takeWord]

/-! ### Word-shaped objects at their places (30_encoding.md R62 to R67, R72) -/

/-- A word from 4 up is none of the four words that the tables R62 and R64 list. -/
theorem word_ne_of_four_le {w : Word} (h : 4 ≤ w.toNat) : w ≠ 0 ∧ w ≠ 1 ∧ w ≠ 2 ∧ w ≠ 3 := by
  refine ⟨?_, ?_, ?_, ?_⟩ <;> rintro rfl <;> exact absurd h (by decide)

theorem four_le_of_word_ne {w : Word} (h0 : w ≠ 0) (h1 : w ≠ 1) (h2 : w ≠ 2) (h3 : w ≠ 3) : 4 ≤ w.toNat := by
  bv_omega

/-- An object of a place other than the stream is the four bytes of its word. -/
theorem encode_of_place_ne_hdr {i : Instr} (h : i.place ≠ .hdr) : encode i = leBytes (encodeWord i) := by
  cases i with
  | repeatRecord | sequenceRecord => exact absurd rfl h
  | _ => rfl

theorem decodeCmd_of_four_le {w : Word} (h : 4 ≤ w.toNat) : decodeCmd w = .reservedCmd w := by
  obtain ⟨h0, h1, h2, h3⟩ := word_ne_of_four_le h
  rw [decodeCmd, if_neg h0, if_neg h1, if_neg h2, if_neg h3]

theorem decodeXform_of_four_le {w : Word} (h : 4 ≤ w.toNat) : decodeXform w = .xformReserved w := by
  obtain ⟨h0, h1, h2, h3⟩ := word_ne_of_four_le h
  rw [decodeXform, if_neg h0, if_neg h1, if_neg h2, if_neg h3]

theorem decodeQword_leWord (q0 q1 q2 q3 : Byte) : decodeQword (leWord q0 q1 q2 q3) = .qword q0 q1 q2 q3 := by
  simpa [leBytes, decodeQword] using leBytes_leWord q0 q1 q2 q3

theorem decodeWord_encodeWord {i : Instr} (hwf : i.wf = true) (hp : i.place ≠ .hdr) :
    decodeWord i.place (encodeWord i) = .ok i := by
  cases i with
  | repeatRecord | sequenceRecord => exact absurd rfl hp
  | reservedCmd op => exact congrArg Except.ok (decodeCmd_of_four_le (of_decide_eq_true hwf))
  | xformReserved tag => exact congrArg Except.ok (decodeXform_of_four_le (of_decide_eq_true hwf))
  | qword q0 q1 q2 q3 => exact congrArg Except.ok (decodeQword_leWord q0 q1 q2 q3)
  | _ => rfl

theorem decodeCmd_sound (w : Word) :
    (decodeCmd w).wf = true ∧ (decodeCmd w).place = .cmd ∧ encodeWord (decodeCmd w) = w := by
  unfold decodeCmd
  split_ifs with h0 h1 h2 h3
  · exact ⟨rfl, rfl, h0.symm⟩
  · exact ⟨rfl, rfl, h1.symm⟩
  · exact ⟨rfl, rfl, h2.symm⟩
  · exact ⟨rfl, rfl, h3.symm⟩
  · exact ⟨decide_eq_true (four_le_of_word_ne h0 h1 h2 h3), rfl, rfl⟩

theorem decodeXform_sound (w : Word) :
    (decodeXform w).wf = true ∧ (decodeXform w).place = .xform ∧ encodeWord (decodeXform w) = w := by
  unfold decodeXform
  split_ifs with h0 h1 h2 h3
  · exact ⟨rfl, rfl, h0.symm⟩
  · exact ⟨rfl, rfl, h1.symm⟩
  · exact ⟨rfl, rfl, h2.symm⟩
  · exact ⟨rfl, rfl, h3.symm⟩
  · exact ⟨decide_eq_true (four_le_of_word_ne h0 h1 h2 h3), rfl, rfl⟩

theorem decodeBpp_sound {w : Word} {i : Instr} (h : decodeBpp w = .ok i) :
    i.wf = true ∧ i.place = .bpp ∧ encodeWord i = w := by
  unfold decodeBpp at h
  split_ifs at h with h1 h4 h8 <;> obtain rfl := Except.ok.inj h
  · exact ⟨rfl, rfl, h1.symm⟩
  · exact ⟨rfl, rfl, h4.symm⟩
  · exact ⟨rfl, rfl, h8.symm⟩

theorem decodeErrcode_sound {w : Word} {i : Instr} (h : decodeErrcode w = .ok i) :
    i.wf = true ∧ i.place = .errcode ∧ encodeWord i = w := by
  unfold decodeErrcode at h
  split_ifs at h with h0 h1 h2 h3 <;> obtain rfl := Except.ok.inj h
  · exact ⟨rfl, rfl, h0.symm⟩
  · exact ⟨rfl, rfl, h1.symm⟩
  · exact ⟨rfl, rfl, h2.symm⟩
  · exact ⟨rfl, rfl, h3.symm⟩

theorem decodeStatus_sound {w : Word} {i : Instr} (h : decodeStatus w = .ok i) :
    i.wf = true ∧ i.place = .status ∧ encodeWord i = w := by
  unfold decodeStatus at h
  split_ifs at h with h0 h1 h2 h6 <;> obtain rfl := Except.ok.inj h
  · exact ⟨rfl, rfl, h0.symm⟩
  · exact ⟨rfl, rfl, h1.symm⟩
  · exact ⟨rfl, rfl, h2.symm⟩
  · exact ⟨rfl, rfl, h6.symm⟩

theorem decodeQword_sound (w : Word) :
    (decodeQword w).wf = true ∧ (decodeQword w).place = .qword ∧ encodeWord (decodeQword w) = w :=
  ⟨rfl, rfl, leWord_laneBytes w⟩

theorem decodeWord_sound {p : Place} {w : Word} {i : Instr} (h : decodeWord p w = .ok i) :
    i.wf = true ∧ i.place = p ∧ encodeWord i = w := by
  cases p with
  | cmd => exact Except.ok.inj h ▸ decodeCmd_sound w
  | xform => exact Except.ok.inj h ▸ decodeXform_sound w
  | bpp => exact decodeBpp_sound h
  | errcode => exact decodeErrcode_sound h
  | status => exact decodeStatus_sound h
  | qword => exact Except.ok.inj h ▸ decodeQword_sound w
  | hdr => cases h

/-- A word at a place and the object it stands for determine each other. -/
theorem decodeWord_eq_ok_iff {p : Place} {w : Word} {i : Instr} (hp : p ≠ .hdr) :
    decodeWord p w = .ok i ↔ i.wf = true ∧ i.place = p ∧ encodeWord i = w := by
  constructor
  · exact decodeWord_sound
  · rintro ⟨hwf, rfl, rfl⟩
    exact decodeWord_encodeWord hwf hp

/-! ### Records of the stream (30_encoding.md R69 to R71) -/

@[simp] theorem repeatHeader_toNat (lm1 : BitVec 7) : (repeatHeader lm1).toNat = 128 + lm1.toNat := by
  rw [repeatHeader, BitVec.toNat_append, ← Nat.shiftLeft_add_eq_or_of_lt lm1.isLt]
  rfl

@[simp] theorem sequenceHeader_toNat (lm1 : BitVec 7) : (sequenceHeader lm1).toNat = lm1.toNat := by
  rw [sequenceHeader, BitVec.toNat_append, ← Nat.shiftLeft_add_eq_or_of_lt lm1.isLt]
  exact Nat.zero_add _

/-- Bit 7 set is a header of 128 or more, whose low bits are what is above 128. -/
theorem hdrIsRepeat_eq (h : Byte) : hdrIsRepeat h = decide (128 ≤ h.toNat) :=
  BitVec.msb_eq_decide h

theorem hdrLm1_toNat (h : Byte) : (hdrLm1 h).toNat = h.toNat % 128 := by
  simp [hdrLm1]

@[simp] theorem hdrIsRepeat_repeatHeader (lm1 : BitVec 7) : hdrIsRepeat (repeatHeader lm1) = true := by
  simp [hdrIsRepeat_eq]

@[simp] theorem hdrIsRepeat_sequenceHeader (lm1 : BitVec 7) : hdrIsRepeat (sequenceHeader lm1) = false := by
  rw [hdrIsRepeat_eq, sequenceHeader_toNat]
  exact decide_eq_false (Nat.not_le.2 lm1.isLt)

@[simp] theorem hdrLm1_repeatHeader (lm1 : BitVec 7) : hdrLm1 (repeatHeader lm1) = lm1 :=
  BitVec.eq_of_toNat_eq (by rw [hdrLm1_toNat, repeatHeader_toNat]; omega)

@[simp] theorem hdrLm1_sequenceHeader (lm1 : BitVec 7) : hdrLm1 (sequenceHeader lm1) = lm1 :=
  BitVec.eq_of_toNat_eq (by rw [hdrLm1_toNat, sequenceHeader_toNat]; omega)

theorem eq_repeatHeader {h : Byte} (hrep : hdrIsRepeat h = true) : repeatHeader (hdrLm1 h) = h := by
  rw [hdrIsRepeat_eq, decide_eq_true_iff] at hrep
  exact BitVec.eq_of_toNat_eq (by rw [repeatHeader_toNat, hdrLm1_toNat]; omega)

theorem eq_sequenceHeader {h : Byte} (hrep : hdrIsRepeat h = false) : sequenceHeader (hdrLm1 h) = h := by
  rw [hdrIsRepeat_eq, decide_eq_false_iff_not] at hrep
  exact BitVec.eq_of_toNat_eq (by rw [sequenceHeader_toNat, hdrLm1_toNat]; omega)

@[simp] theorem sequenceRecord_wf (lm1 : BitVec 7) (values : List Byte) :
    (Instr.sequenceRecord lm1 values).wf = true ↔ values.length = lm1.toNat + 1 := beq_iff_eq

theorem decodeHdr_repeatHeader (lm1 : BitVec 7) (v : Byte) (rest : List Byte) :
    decodeHdr (repeatHeader lm1 :: v :: rest) = .ok (.repeatRecord lm1 v, rest) := by
  simp [decodeHdr]

theorem decodeHdr_sequenceHeader {lm1 : BitVec 7} {values : List Byte} (rest : List Byte)
    (hlen : values.length = lm1.toNat + 1) :
    decodeHdr (sequenceHeader lm1 :: (values ++ rest)) = .ok (.sequenceRecord lm1 values, rest) := by
  simp [decodeHdr, ← hlen]

theorem decodeHdr_encode {i : Instr} (rest : List Byte) (hwf : i.wf = true) (hp : i.place = .hdr) :
    decodeHdr (encode i ++ rest) = .ok (i, rest) := by
  cases i with
  | repeatRecord lm1 v => exact decodeHdr_repeatHeader lm1 v rest
  | sequenceRecord lm1 values => exact decodeHdr_sequenceHeader rest ((sequenceRecord_wf lm1 values).1 hwf)
  | _ => cases hp

theorem decodeHdr_sound {bytes rest : List Byte} {i : Instr} (h : decodeHdr bytes = .ok (i, rest)) :
    i.wf = true ∧ i.place = .hdr ∧ encode i ++ rest = bytes := by
  unfold decodeHdr at h
  split at h
  · cases h
  · next b t =>
    split at h
    · next hrep =>
      split at h
      · cases h
      · cases h
        exact ⟨rfl, rfl, by simp [encode, eq_repeatHeader hrep]⟩
    · next hrep =>
      simp only at h
      split_ifs at h with hlen
      cases h
      have htake := List.length_take_of_le (Nat.not_lt.1 hlen)
      exact ⟨(sequenceRecord_wf _ _).2 htake, rfl, by simp [encode, eq_sequenceHeader (Bool.eq_false_iff.2 hrep)]⟩

/-- A record at the front of the stream and the bytes it takes determine each other. -/
theorem decodeHdr_eq_ok_iff {bytes rest : List Byte} {i : Instr} :
    decodeHdr bytes = .ok (i, rest) ↔ i.wf = true ∧ i.place = .hdr ∧ encode i ++ rest = bytes := by
  constructor
  · exact decodeHdr_sound
  · rintro ⟨hwf, hp, rfl⟩
    exact decodeHdr_encode rest hwf hp

/-! ### Decoder and encoder (30_encoding.md R60) -/

theorem decode_hdr (bytes : List Byte) : decode .hdr bytes = decodeHdr bytes := if_pos rfl

/-- At a place other than the stream the decoder takes one word and reads it by the place's table. -/
theorem decode_eq_ok_iff_of_ne_hdr {p : Place} {bytes rest : List Byte} {i : Instr} (hp : p ≠ .hdr) :
    decode p bytes = .ok (i, rest) ↔ ∃ w, takeWord bytes = .ok (w, rest) ∧ decodeWord p w = .ok i := by
  rw [decode, if_neg hp]
  constructor
  · intro h
    cases hw : takeWord bytes with
    | error e => simp [hw] at h
    | ok wr =>
      cases hi : decodeWord p wr.1 with
      | error e => simp [hw, hi] at h
      | ok j =>
        obtain ⟨rfl, rfl⟩ : j = i ∧ wr.2 = rest := by simpa [hw, hi] using h
        exact ⟨wr.1, rfl, hi⟩
  · rintro ⟨w, hw, hi⟩
    simp [hw, hi]

/-- The decoder accepts an object of the place and nothing else, and takes exactly the object's encoding. -/
theorem decode_eq_ok_iff {p : Place} {bytes rest : List Byte} {i : Instr} :
    decode p bytes = .ok (i, rest) ↔ i.wf = true ∧ i.place = p ∧ encode i ++ rest = bytes := by
  by_cases hp : p = .hdr
  · subst hp
    rw [decode_hdr, decodeHdr_eq_ok_iff]
  · simp only [decode_eq_ok_iff_of_ne_hdr hp, takeWord_eq_ok_iff, decodeWord_eq_ok_iff hp]
    constructor
    · rintro ⟨w, hbytes, hwf, rfl, rfl⟩
      exact ⟨hwf, rfl, by rw [encode_of_place_ne_hdr hp, hbytes]⟩
    · rintro ⟨hwf, rfl, hbytes⟩
      exact ⟨encodeWord i, by rw [← encode_of_place_ne_hdr hp, hbytes], hwf, rfl, rfl⟩

/-- Settles O1: what is encoded at a place is what the decoder accepts there. -/
theorem decodeEncodeRoundTrip : Obligations.DecodeEncodeRoundTrip := by
  unfold Obligations.DecodeEncodeRoundTrip
  exact fun i rest hwf => decode_eq_ok_iff.2 ⟨hwf, rfl, rfl⟩

/-- Settles O2: what the decoder accepts at a place is what is encoded there. -/
theorem decodedObjectIsExactlyItsBytes : Obligations.DecodedObjectIsExactlyItsBytes := by
  unfold Obligations.DecodedObjectIsExactlyItsBytes
  exact fun p bytes i rest => decode_eq_ok_iff.1

/-- Settles O4, by running the decoder on each word. -/
theorem tableWordsDecode : Obligations.TableWordsDecode := by
  unfold Obligations.TableWordsDecode
  exact ⟨rfl, rfl, rfl, rfl, rfl, rfl, rfl, rfl, rfl, rfl, rfl⟩


/-! ### The length of a record (30_encoding.md R70) -/

theorem decodeHdr_of_high {h : Byte} (v : Byte) (rest : List Byte) (hh : 128 ≤ h.toNat) :
    decodeHdr (h :: v :: rest) = .ok (.repeatRecord (BitVec.ofNat 7 (h.toNat - 128)) v, rest) := by
  have hhdr : repeatHeader (BitVec.ofNat 7 (h.toNat - 128)) = h :=
    BitVec.eq_of_toNat_eq (by rw [repeatHeader_toNat, BitVec.toNat_ofNat]; omega)
  simpa only [hhdr] using decodeHdr_repeatHeader (BitVec.ofNat 7 (h.toNat - 128)) v rest

theorem decodeHdr_of_low {h : Byte} {t : List Byte} (hh : h.toNat < 128) (hlen : h.toNat + 1 ≤ t.length) :
    decodeHdr (h :: t) = .ok (.sequenceRecord (BitVec.ofNat 7 h.toNat) (t.take (h.toNat + 1)), t.drop (h.toNat + 1)) := by
  have hlm1 : (BitVec.ofNat 7 h.toNat).toNat = h.toNat := Nat.mod_eq_of_lt hh
  have hhdr : sequenceHeader (BitVec.ofNat 7 h.toNat) = h :=
    BitVec.eq_of_toNat_eq (by rw [sequenceHeader_toNat, hlm1])
  have htake : (t.take (h.toNat + 1)).length = (BitVec.ofNat 7 h.toNat).toNat + 1 := by
    rw [hlm1, List.length_take_of_le hlen]
  simpa only [hhdr, List.take_append_drop] using decodeHdr_sequenceHeader (t.drop (h.toNat + 1)) htake

/-- Settles O3: bit 7 of the header chooses the record, and 128 bytes are enough for either. -/
theorem headerAloneTellsRecordLength : Obligations.HeaderAloneTellsRecordLength := by
  unfold Obligations.HeaderAloneTellsRecordLength
  intro h t hlen
  constructor
  · intro hh
    cases t with
    | nil => simp at hlen
    | cons v rest => exact ⟨v, rfl, decodeHdr_of_high v rest hh⟩
  · intro hh
    rw [Nat.add_comm 1, List.drop_succ_cons]
    exact decodeHdr_of_low hh (by omega)

/-! ### `STATUS` (30_encoding.md R67) -/

/-- The report the invariant allows: none while `BUSY`, and `ERR` only with `DONE` (10_state.md R13). -/
theorem State.Inv.report_cases {s : State} (h : s.Inv) :
    (s.phase = .busy ∧ s.done = false ∧ s.err = false) ∨ (s.phase = .idle ∧ (s.err = true → s.done = true)) := by
  cases hphase : s.phase with
  | busy =>
    have hdone := (h.busyClean hphase).1
    exact .inl ⟨rfl, hdone, Bool.eq_false_iff.2 fun herr => by simp [h.errDone herr] at hdone⟩
  | idle => exact .inr ⟨rfl, h.errDone⟩

/-- The bits of `STATUS`: `BUSY`, `DONE`, `ERR`, and 0 from bit 3 up. -/
theorem statusWord_getLsbD (s : State) (j : Nat) : (statusWord s).getLsbD j = [s.isBusy, s.done, s.err].getD j false := by
  change BitVec.getLsbD (w := 29 + 1 + 1 + 1) _ j = _
  simp only [statusWord, BitVec.getLsbD_append]
  match j with
  | 0 => simp
  | 1 => simp
  | 2 => simp
  | j + 3 => simp

/-- Settles O5: the bits of the word, and the reports that the invariant allows. -/
theorem statusReadsOneOfFourValues : Obligations.StatusReadsOneOfFourValues := by
  unfold Obligations.StatusReadsOneOfFourValues
  intro s
  simp only [statusWord_getLsbD]
  refine ⟨isBusy_eq_true s, rfl, rfl, fun j hj => List.getD_eq_default _ _ hj, fun hinv => ?_⟩
  rcases hinv.report_cases with ⟨hphase, hdone, herr⟩ | ⟨hphase, hdone⟩
  · simp [statusWord, (isBusy_eq_true s).2 hphase, hdone, herr]
  · have hbusy := (isBusy_eq_false s).2 hphase
    cases herr : s.err with
    | true => simp [statusWord, hbusy, hdone herr, herr]
    | false => cases hd : s.done <;> simp [statusWord, hbusy, hd, herr]

/-! ### The stream as a concatenation of records (30_encoding.md R68, R71, 41_rle.md R95 to R99) -/

/-- The stream is the records of the table one after another, nothing between them, and they expand to `out`. -/
def IsRecordStream (stream out : List Byte) : Prop :=
  ∃ records : List Instr, (∀ i ∈ records, i.wf = true ∧ i.place = .hdr) ∧ records.flatMap encode = stream ∧
    records.flatMap recordExpansion = out

theorem IsRecordStream.nil : IsRecordStream [] [] := ⟨[], by simp⟩

theorem IsRecordStream.append {s₁ s₂ o₁ o₂ : List Byte} (h₁ : IsRecordStream s₁ o₁) (h₂ : IsRecordStream s₂ o₂) :
    IsRecordStream (s₁ ++ s₂) (o₁ ++ o₂) := by
  obtain ⟨r₁, hr₁, rfl, rfl⟩ := h₁
  obtain ⟨r₂, hr₂, rfl, rfl⟩ := h₂
  exact ⟨r₁ ++ r₂, List.forall_mem_append.2 ⟨hr₁, hr₂⟩, List.flatMap_append, List.flatMap_append⟩

theorem IsRecordStream.flatMap {α : Type} {l : List α} {f g : α → List Byte}
    (h : ∀ a ∈ l, IsRecordStream (f a) (g a)) : IsRecordStream (l.flatMap f) (l.flatMap g) := by
  induction l with
  | nil => exact .nil
  | cons a l ih =>
    rw [List.flatMap_cons, List.flatMap_cons]
    exact (h a List.mem_cons_self).append (ih fun b hb => h b (List.mem_cons_of_mem a hb))

theorem IsRecordStream.of_record {i : Instr} (hwf : i.wf = true) (hp : i.place = .hdr) :
    IsRecordStream (encode i) (recordExpansion i) :=
  ⟨[i], by simp [hwf, hp]⟩

/-- R97: every record holds from 1 to 128 units. -/
theorem chunkSizes_bounds {n k : Nat} (h : k ∈ chunkSizes n) : 1 ≤ k ∧ k ≤ 128 := by
  unfold chunkSizes at h
  split_ifs at h with hn
  · simp at h
  · rcases List.mem_append.1 h with hfull | hlast
    · have := List.eq_of_mem_replicate hfull
      omega
    · have := List.mem_singleton.1 hlast
      omega

/-- R97: the records divide the units among them. -/
theorem chunkSizes_sum (n : Nat) : (chunkSizes n).sum = n := by
  unfold chunkSizes
  split_ifs with hn
  · exact hn.symm
  · simp only [List.sum_append, List.sum_replicate, List.sum_singleton, smul_eq_mul]
    omega

/-- The header of a record holds the number of its units less one (R69, R70). -/
theorem lm1_add_one {k : Nat} (h : 1 ≤ k ∧ k ≤ 128) : (BitVec.ofNat 7 (k - 1)).toNat + 1 = k := by
  rw [BitVec.toNat_ofNat]
  omega

theorem repeatHeader_ofNat {k : Nat} (h : 1 ≤ k ∧ k ≤ 128) :
    repeatHeader (BitVec.ofNat 7 (k - 1)) = 0x80#8 ||| BitVec.ofNat 8 (k - 1) := by
  have hor : 128 + (k - 1) = 128 ||| (k - 1) := Nat.two_pow_add_eq_or_of_lt (i := 7) (by omega) 1
  apply BitVec.eq_of_toNat_eq
  calc (repeatHeader (BitVec.ofNat 7 (k - 1))).toNat
    _ = 128 + (k - 1) := by rw [repeatHeader_toNat, BitVec.toNat_ofNat, Nat.mod_eq_of_lt (by omega)]
    _ = (0x80#8 ||| BitVec.ofNat 8 (k - 1)).toNat := by
      rw [hor, BitVec.toNat_or, BitVec.toNat_ofNat, BitVec.toNat_ofNat, Nat.mod_eq_of_lt (a := k - 1) (by omega)]

theorem sequenceHeader_ofNat {k : Nat} (h : 1 ≤ k ∧ k ≤ 128) :
    sequenceHeader (BitVec.ofNat 7 (k - 1)) = BitVec.ofNat 8 (k - 1) := by
  apply BitVec.eq_of_toNat_eq
  rw [sequenceHeader_toNat, BitVec.toNat_ofNat, BitVec.toNat_ofNat]
  omega

theorem repeatRecordBytes_isRecordStream {k : Nat} (v : Byte) (h : 1 ≤ k ∧ k ≤ 128) :
    IsRecordStream (repeatRecordBytes k v) (List.replicate k v) := by
  have hrec := IsRecordStream.of_record (i := .repeatRecord (BitVec.ofNat 7 (k - 1)) v) rfl rfl
  rwa [encode, recordExpansion, repeatHeader_ofNat h, lm1_add_one h] at hrec

theorem sequenceBytes_isRecordStream {values : List Byte} (h : 1 ≤ values.length ∧ values.length ≤ 128) :
    IsRecordStream (BitVec.ofNat 8 (values.length - 1) :: values) values := by
  have hrec := IsRecordStream.of_record (i := .sequenceRecord (BitVec.ofNat 7 (values.length - 1)) values)
    ((sequenceRecord_wf _ _).2 (lm1_add_one h).symm) rfl
  rwa [encode, recordExpansion, sequenceHeader_ofNat h] at hrec

theorem flatMap_replicate_sum {α : Type} (v : α) (ks : List Nat) :
    (ks.flatMap fun k => List.replicate k v) = List.replicate ks.sum v := by
  induction ks with
  | nil => rfl
  | cons k ks ih => simp [ih]

theorem serRepeat_isRecordStream (f : Byte → Byte) (count : Nat) (v : Byte) :
    IsRecordStream (serRepeat f count v) (List.replicate count (f v)) := by
  have h := IsRecordStream.flatMap fun k (hk : k ∈ chunkSizes count) =>
    repeatRecordBytes_isRecordStream (f v) (chunkSizes_bounds hk)
  rwa [flatMap_replicate_sum, chunkSizes_sum] at h

theorem serChunks_isRecordStream (f : Byte → Byte) (ks : List Nat) (hks : ∀ k ∈ ks, 1 ≤ k ∧ k ≤ 128) :
    ∀ values : List Byte, values.length = ks.sum → IsRecordStream (serChunks f ks values) (values.map f) := by
  induction ks with
  | nil =>
    intro values hlen
    rw [List.length_eq_zero_iff.1 hlen]
    exact .nil
  | cons k ks ih =>
    intro values hlen
    rw [List.sum_cons] at hlen
    obtain ⟨hk, hks⟩ := List.forall_mem_cons.1 hks
    have htake : ((values.take k).map f).length = k := by
      rw [List.length_map, List.length_take_of_le (by omega)]
    have hhead := sequenceBytes_isRecordStream (htake.symm ▸ hk)
    have htail := ih hks (values.drop k) (by rw [List.length_drop]; omega)
    rw [htake] at hhead
    have h := hhead.append htail
    rwa [← List.map_append, List.take_append_drop] at h

theorem serToken_isRecordStream (f : Byte → Byte) (t : RunToken) :
    IsRecordStream (serToken f t) ((expandToken t).map f) := by
  cases t with
  | rept count v =>
    rw [expandToken, List.map_replicate]
    exact serRepeat_isRecordStream f count v
  | seq values =>
    exact serChunks_isRecordStream f _ (fun _ => chunkSizes_bounds) values (chunkSizes_sum values.length).symm

/-- R99, R102: the encoder's output is a stream of records that expand to the transformed input. -/
theorem rleEncode_isRecordStream (s : List Byte) (m : Nat) (tag : Word) :
    IsRecordStream (rleEncode s m tag) (s.map (xfByte tag)) := by
  have h := IsRecordStream.flatMap fun t (_ : t ∈ tokenize (runLengths s) m) => serToken_isRecordStream (xfByte tag) t
  rwa [← List.map_flatMap, tokenize_runLengths_expand] at h

/-- Settles O47: each token of the encoder is serialized to records that expand to it. -/
theorem streamIsAConcatenationOfRecords : Obligations.StreamIsAConcatenationOfRecords := by
  unfold Obligations.StreamIsAConcatenationOfRecords
  exact rleEncode_isRecordStream

end Sys2Proof.Machine

namespace Sys2Proof.Machine

/-! ### Bit operations over byte groups (40_bitops.md R80 to R86)

The two reversals that look inside a byte are first brought to their per-byte form, `g.reverse.map rev8` and `g.reverse.map swap4`; the
sequence forms and the self-inverse laws follow from it. -/

/-! The bits and nibbles of a group, counted from its start and from its end. -/

/-- Bit `8k + r` of a group (R80). -/
theorem groupBit_eq_getLsbD {g : List Byte} {k r : Nat} (hk : k < g.length) (hr : r < 8) :
    groupBit g (8 * k + r) = g[k].getLsbD (7 - r) := by
  have hdiv : (8 * k + r) / 8 = k := by omega
  have hmod : (8 * k + r) % 8 = r := by omega
  rw [groupBit, hdiv, hmod, List.getElem?_eq_getElem hk]

/-- The bit a group holds `8k + r` places before its last one, read from the reversed group. -/
theorem groupBit_mirror {g : List Byte} {k r : Nat} (hk : k < g.length) (hr : r < 8) :
    groupBit g (8 * g.length - 1 - (8 * k + r)) = (g.reverse[k]'(by simpa using hk)).getLsbD r := by
  have hidx : 8 * g.length - 1 - (8 * k + r) = 8 * (g.length - 1 - k) + (7 - r) := by omega
  have hback : 7 - (7 - r) = r := by omega
  rw [hidx, groupBit_eq_getLsbD (by omega) (by omega), hback, List.getElem_reverse]

/-- Nibble `2k + r` of a group, the high nibble of a byte first (R80). -/
theorem groupNibble_eq_extractLsb' {g : List Byte} {k r : Nat} (hk : k < g.length) (hr : r < 2) :
    groupNibble g (2 * k + r) = g[k].extractLsb' (4 * (1 - r)) 4 := by
  have hdiv : (2 * k + r) / 2 = k := by omega
  have hmod : (2 * k + r) % 2 = r := by omega
  rw [groupNibble, hdiv, hmod, List.getElem?_eq_getElem hk]
  interval_cases r <;> rfl

/-- The nibble a group holds `2k + r` places before its last one, read from the reversed group. -/
theorem groupNibble_mirror {g : List Byte} {k r : Nat} (hk : k < g.length) (hr : r < 2) :
    groupNibble g (2 * g.length - 1 - (2 * k + r)) = (g.reverse[k]'(by simpa using hk)).extractLsb' (4 * r) 4 := by
  have hidx : 2 * g.length - 1 - (2 * k + r) = 2 * (g.length - 1 - k) + (1 - r) := by omega
  have hback : 1 - (1 - r) = r := by omega
  rw [hidx, groupNibble_eq_extractLsb' (by omega) (by omega), hback, List.getElem_reverse]

/-! The two byte functions. -/

/-- R82: `rev8` mirrors the bit numbers. -/
theorem rev8_getLsbD (b : Byte) {t : Nat} (ht : t < 8) : (rev8 b).getLsbD t = b.getLsbD (7 - t) := by
  unfold rev8 byteOfBits
  simp only [BitVec.getLsbD_append]
  interval_cases t <;> simp

theorem rev8_involutive : Function.Involutive rev8 := by
  intro b
  refine BitVec.eq_of_getLsbD_eq fun t ht => ?_
  have hback : 7 - (7 - t) = t := by omega
  rw [rev8_getLsbD _ ht, rev8_getLsbD _ (by omega), hback]

/-- R84: the low nibble goes above the high one. -/
theorem swap4_eq_append (b : Byte) : swap4 b = b.extractLsb' 0 4 ++ b.extractLsb' 4 4 := by
  refine BitVec.eq_of_getLsbD_eq fun i hi => ?_
  rw [BitVec.getLsbD_append, swap4]
  interval_cases i <;> simp

theorem swap4_extractLsb' (b : Byte) {r : Nat} (hr : r < 2) :
    (swap4 b).extractLsb' (4 * (1 - r)) 4 = b.extractLsb' (4 * r) 4 := by
  rw [swap4_eq_append]
  interval_cases r
  · exact BitVec.extractLsb'_append_eq_left
  · exact BitVec.extractLsb'_append_eq_right

theorem swap4_toNat (b : Byte) : (swap4 b).toNat = b.toNat % 16 * 16 + b.toNat / 16 := by
  rw [swap4_eq_append, BitVec.toNat_append, ← Nat.shiftLeft_add_eq_or_of_lt (BitVec.isLt _)]
  simp [Nat.shiftLeft_eq, Nat.shiftRight_eq_div_pow]
  omega

theorem swap4_involutive : Function.Involutive swap4 := by
  intro b
  refine BitVec.eq_of_toNat_eq ?_
  rw [swap4_toNat, swap4_toNat]
  omega

/-! The reversals. -/

@[simp] theorem reverseBits_length (g : List Byte) : (reverseBits g).length = g.length := by simp [reverseBits]

@[simp] theorem reverseNibbles_length (g : List Byte) : (reverseNibbles g).length = g.length := by simp [reverseNibbles]

/-- R82: the bytes are reversed, and the bits of each. -/
theorem reverseBits_eq_map (g : List Byte) : reverseBits g = g.reverse.map rev8 := by
  refine List.ext_getElem (by simp) fun k hk _ => ?_
  rw [reverseBits_length] at hk
  have hbit (r : Nat) (hr : r < 8) := groupBit_mirror hk hr
  have hbit0 := hbit 0 (by decide)
  rw [Nat.add_zero] at hbit0
  simp [reverseBits, rev8, hbit, hbit0]

/-- R84: the bytes are reversed, and the nibbles of each changed over. -/
theorem reverseNibbles_eq_map (g : List Byte) : reverseNibbles g = g.reverse.map swap4 := by
  refine List.ext_getElem (by simp) fun k hk _ => ?_
  rw [reverseNibbles_length] at hk
  have hlo := groupNibble_mirror hk (r := 0) (by decide)
  have hhi := groupNibble_mirror hk (r := 1) (by decide)
  simp only [reverseNibbles, List.getElem_map, List.getElem_range, swap4_eq_append]
  exact congrArg₂ (· ++ ·) hlo hhi

theorem map_reverse_map_reverse {f : Byte → Byte} (hf : Function.Involutive f) (g : List Byte) :
    (g.reverse.map f).reverse.map f = g := by
  rw [← List.map_reverse, List.reverse_reverse, List.map_map, hf.comp_self, List.map_id]

/-- R82: the bit sequence is reversed. -/
theorem groupBit_reverseBits {g : List Byte} {j : Nat} (hj : j < 8 * g.length) :
    groupBit (reverseBits g) j = groupBit g (8 * g.length - 1 - j) := by
  have hk : j / 8 < g.length := by omega
  have hr : j % 8 < 8 := by omega
  have hback : 7 - (7 - j % 8) = j % 8 := by omega
  rw [← Nat.div_add_mod j 8, groupBit_mirror hk hr, groupBit_eq_getLsbD (by simpa using hk) hr]
  simp only [reverseBits_eq_map, List.getElem_map, rev8_getLsbD _ (show 7 - j % 8 < 8 by omega), hback]

/-- R84: the nibble sequence is reversed. -/
theorem groupNibble_reverseNibbles {g : List Byte} {j : Nat} (hj : j < 2 * g.length) :
    groupNibble (reverseNibbles g) j = groupNibble g (2 * g.length - 1 - j) := by
  have hk : j / 2 < g.length := by omega
  have hr : j % 2 < 2 := by omega
  rw [← Nat.div_add_mod j 2, groupNibble_mirror hk hr, groupNibble_eq_extractLsb' (by simpa using hk) hr]
  simp only [reverseNibbles_eq_map, List.getElem_map, swap4_extractLsb' _ hr]

theorem getBit_of_le {data : List Byte} {i : Nat} (h : 8 * data.length ≤ i) : getBit data i = .error .outOfRange := if_pos h

theorem getBit_of_lt {data : List Byte} {i : Nat} (h : i < 8 * data.length) : getBit data i = .ok (groupBit data i).toNat :=
  if_neg (not_le.2 h)

/-! The transform by tag. -/

theorem xf_of_four_le {tag : Word} (b : Byte) (h : 4 ≤ tag.toNat) : xf tag b = .error .unsupportedConfiguration := by
  obtain ⟨h0, h1, h2, h3⟩ := word_ne_of_four_le h
  rw [xf, if_neg h0, if_neg h1, if_neg h2, if_neg h3]

/-- R86: the byte function of every tag is its own inverse; from tag 4 up this is the filler of `xfByte`. -/
@[simp] theorem xfByte_xfByte (tag : Word) (b : Byte) : xfByte tag (xfByte tag b) = b := by
  by_cases h0 : tag = 0
  · subst h0; rfl
  by_cases h1 : tag = 1
  · subst h1; exact rev8_involutive b
  by_cases h2 : tag = 2
  · subst h2; exact swap4_involutive b
  by_cases h3 : tag = 3
  · subst h3; rfl
  simp [xfByte, xf_of_four_le _ (four_le_of_word_ne h0 h1 h2 h3)]

/-- Settles O38: the per-byte forms of the reversals, read bit by bit and nibble by nibble. -/
theorem reversalsReverseTheirSequence : Obligations.ReversalsReverseTheirSequence := by
  unfold Obligations.ReversalsReverseTheirSequence
  intro g
  refine ⟨⟨reverseBits_length g, List.length_reverse, reverseNibbles_length g⟩, fun j hj => ?_,
    fun k hk => List.getElem?_reverse hk, fun j hj => groupNibble_reverseNibbles hj⟩
  rw [getBit_of_lt (by simpa using hj), getBit_of_lt (by omega), groupBit_reverseBits hj]

/-- Settles O39: a reversal of the bytes with a self-inverse function on each is self-inverse. -/
theorem reversalsAreSelfInverse : Obligations.ReversalsAreSelfInverse := by
  unfold Obligations.ReversalsAreSelfInverse
  intro g
  refine ⟨⟨?_, ?_, List.reverse_reverse g⟩, reverseBits_eq_map g, reverseNibbles_eq_map g⟩
  · rw [reverseBits_eq_map, reverseBits_eq_map, map_reverse_map_reverse rev8_involutive]
  · rw [reverseNibbles_eq_map, reverseNibbles_eq_map, map_reverse_map_reverse swap4_involutive]

/-- Settles O40: the group operations on a group of one byte are the byte functions. -/
theorem transformByTag : Obligations.TransformByTag := by
  unfold Obligations.TransformByTag
  intro tag b
  have hrev : reverseBits [b] = [rev8 b] := reverseBits_eq_map [b]
  have hswap : reverseNibbles [b] = [swap4 b] := reverseNibbles_eq_map [b]
  exact ⟨rfl, ⟨rev8 b, rfl, hrev, fun _ => rev8_getLsbD b⟩, ⟨swap4 b, rfl, hswap, swap4_toNat b⟩, ⟨rfl, rfl⟩,
    xf_of_four_le b, fun _ => xfByte_xfByte tag b⟩

/-- Settles O37: the two branches of `getBit`, and a bit as an arithmetic quotient. -/
theorem getBitReadsMsbFirst : Obligations.GetBitReadsMsbFirst := by
  unfold Obligations.GetBitReadsMsbFirst
  intro data i
  refine ⟨getBit_of_le, fun hi => ?_⟩
  have hk : i / 8 < data.length := by omega
  have hbit := groupBit_eq_getLsbD hk (Nat.mod_lt i (by decide))
  rw [Nat.div_add_mod] at hbit
  exact ⟨data[i / 8], List.getElem?_eq_getElem hk, by rw [getBit_of_lt hi, hbit, BitVec.getLsbD, Nat.toNat_testBit]⟩

end Sys2Proof.Machine

namespace Sys2Proof.Machine

/-! ### The maximal runs (41_rle.md R90, R91) -/

/-- The runs are non-empty, and neighbours have different values. -/
structure MaximalRuns (ps : List RunPair) : Prop where
  pos : ∀ p ∈ ps, 1 ≤ p.1
  differ : ps.IsChain fun p q => p.2 ≠ q.2

theorem MaximalRuns.cons {p : RunPair} {ps : List RunPair} (h : MaximalRuns ps) (hp : 1 ≤ p.1)
    (hhead : ∀ q ∈ ps.head?, p.2 ≠ q.2) : MaximalRuns (p :: ps) :=
  ⟨List.forall_mem_cons.2 ⟨hp, h.pos⟩, h.differ.cons hhead⟩

theorem MaximalRuns.left {qs ps : List RunPair} (h : MaximalRuns (qs ++ ps)) : MaximalRuns qs :=
  ⟨fun q hq => h.pos q (List.mem_append_left ps hq), h.differ.left_of_append⟩

theorem MaximalRuns.right {qs ps : List RunPair} (h : MaximalRuns (qs ++ ps)) : MaximalRuns ps :=
  ⟨fun p hp => h.pos p (List.mem_append_right qs hp), h.differ.right_of_append⟩

/-- A relation between neighbours, read off at two indices. -/
theorem rel_of_getElem?_succ {α : Type} {R : α → α → Prop} {l : List α} (h : l.IsChain R) {k : Nat} {a b : α}
    (ha : l[k]? = some a) (hb : l[k + 1]? = some b) : R a b := by
  obtain ⟨hk, rfl⟩ := List.getElem?_eq_some_iff.1 hb
  obtain ⟨-, rfl⟩ := List.getElem?_eq_some_iff.1 ha
  exact h.getElem k hk

theorem isChain_of_getElem?_succ {α : Type} {R : α → α → Prop} {l : List α}
    (h : ∀ k a b, l[k]? = some a → l[k + 1]? = some b → R a b) : l.IsChain R :=
  List.isChain_iff_getElem.2 fun k hk =>
    h k _ _ (List.getElem?_eq_getElem (Nat.lt_of_succ_lt hk)) (List.getElem?_eq_getElem hk)

theorem runsFrom_head? (bs : List Byte) : ∀ (n : Nat) (v : Byte), (runsFrom n v bs).head?.map Prod.snd = some v := by
  induction bs with
  | nil => exact fun n v => rfl
  | cons b bs ih =>
    intro n v
    simp only [runsFrom]
    split_ifs
    · exact ih (n + 1) v
    · rfl

theorem runsFrom_maximal (bs : List Byte) : ∀ (n : Nat) (v : Byte), 1 ≤ n → MaximalRuns (runsFrom n v bs) := by
  induction bs with
  | nil => exact fun n v hn => ⟨by simpa [runsFrom] using hn, .singleton _⟩
  | cons b bs ih =>
    intro n v hn
    simp only [runsFrom]
    split_ifs with hb
    · exact ih (n + 1) v (by omega)
    · refine (ih 1 b (by decide)).cons hn fun q hq => ?_
      have hhead := runsFrom_head? bs 1 b
      rw [hq, Option.map_some, Option.some_inj] at hhead
      exact hhead ▸ Ne.symm hb

theorem runLengths_maximal (s : List Byte) : MaximalRuns (runLengths s) := by
  cases s with
  | nil => exact ⟨by simp [runLengths], .nil⟩
  | cons b bs => exact runsFrom_maximal bs 1 b (by decide)

theorem runLengths_sum (s : List Byte) : ((runLengths s).map Prod.fst).sum = s.length := by
  have h := congrArg List.length (runLengths_expand s)
  simpa [List.length_flatMap, expandRun] using h

/-- Settles O41: the scan closes a run only where the next byte differs. -/
theorem runLengthsAreTheMaximalRuns : Obligations.RunLengthsAreTheMaximalRuns := by
  unfold Obligations.RunLengthsAreTheMaximalRuns
  intro s
  have h := runLengths_maximal s
  exact ⟨h.pos, fun k p q => rel_of_getElem?_succ h.differ, runLengths_expand s, runLengths_sum s⟩

/-! The maximal runs of a sequence are the only ones. -/

@[simp] theorem expandRun_eq_nil_iff (p : RunPair) : expandRun p = [] ↔ p.1 = 0 := List.replicate_eq_nil_iff p.2

theorem expandRuns_head? {ps : List RunPair} (hpos : ∀ p ∈ ps, 1 ≤ p.1) :
    (ps.flatMap expandRun).head? = ps.head?.map Prod.snd := by
  cases ps with
  | nil => rfl
  | cons p ps =>
    have hp : p.1 ≠ 0 := Nat.one_le_iff_ne_zero.1 (hpos p List.mem_cons_self)
    simp [expandRun, List.head?_replicate, hp]

theorem expandRuns_getLast? {ps : List RunPair} (hpos : ∀ p ∈ ps, 1 ≤ p.1) :
    (ps.flatMap expandRun).getLast? = ps.getLast?.map Prod.snd := by
  rcases List.eq_nil_or_concat ps with rfl | ⟨qs, p, rfl⟩
  · rfl
  · have hp : p.1 ≠ 0 := Nat.one_le_iff_ne_zero.1 (hpos p (by simp))
    simp [expandRun, List.getLast?_replicate, hp]

/-- The byte before a boundary between two runs and the byte after it differ. -/
theorem MaximalRuns.getLast?_ne_head? {qs ps : List RunPair} (h : MaximalRuns (qs ++ ps)) (hne : qs ≠ []) :
    (qs.flatMap expandRun).getLast? ≠ (ps.flatMap expandRun).head? := by
  rw [expandRuns_getLast? h.left.pos, expandRuns_head? h.right.pos, List.getLast?_eq_some_getLast hne]
  cases ps with
  | nil => simp
  | cons p ps => simpa using h.differ.rel_getLast_head_of_append hne (List.cons_ne_nil p ps)

theorem runsFrom_replicate_append (bs : List Byte) (v : Byte) (k : Nat) : ∀ n : Nat,
    runsFrom n v (List.replicate k v ++ bs) = runsFrom (n + k) v bs := by
  induction k with
  | zero => exact fun n => rfl
  | succ k ih =>
    intro n
    rw [List.replicate_succ, List.cons_append, runsFrom, if_pos rfl, ih, Nat.add_right_comm]
    rfl

/-- A run is closed where another byte follows. -/
theorem runsFrom_of_head?_ne {bs : List Byte} {v : Byte} (n : Nat) (h : bs.head? ≠ some v) :
    runsFrom n v bs = (n, v) :: runLengths bs := by
  cases bs with
  | nil => rfl
  | cons b bs => exact if_neg fun hb => h (congrArg some hb)

theorem runLengths_expandRun_append {p : RunPair} {bs : List Byte} (hp : 1 ≤ p.1) (h : bs.head? ≠ some p.2) :
    runLengths (expandRun p ++ bs) = p :: runLengths bs := by
  obtain ⟨n, hn⟩ := Nat.exists_eq_add_of_le hp
  calc runLengths (expandRun p ++ bs)
    _ = runsFrom 1 p.2 (List.replicate n p.2 ++ bs) := by rw [expandRun, hn, Nat.add_comm, List.replicate_succ]; rfl
    _ = runsFrom p.1 p.2 bs := by rw [runsFrom_replicate_append, hn]
    _ = p :: runLengths bs := runsFrom_of_head?_ne p.1 h

/-- Maximal runs are the run lengths of the sequence they expand to. -/
theorem runLengths_expandRuns {ps : List RunPair} (h : MaximalRuns ps) : runLengths (ps.flatMap expandRun) = ps := by
  induction ps with
  | nil => rfl
  | cons p ps ih =>
    have hps : MaximalRuns ps := h.right (qs := [p])
    have hp := h.pos p List.mem_cons_self
    have hhead : (ps.flatMap expandRun).head? ≠ some p.2 := by
      have := h.getLast?_ne_head? (qs := [p]) (List.cons_ne_nil p [])
      rw [expandRuns_getLast? (h.left (qs := [p])).pos] at this
      exact Ne.symm this
    rw [List.flatMap_cons, runLengths_expandRun_append hp hhead, ih hps]

/-! ### The tokens (41_rle.md R93, R94) -/

theorem tokenizeFrom_cons_of_lt {m : Nat} {p : RunPair} (buf : List Byte) (ps : List RunPair) (h : m < p.1) :
    tokenizeFrom m buf (p :: ps) = flushBuf buf ++ .rept p.1 p.2 :: tokenizeFrom m [] ps := if_pos h

theorem tokenizeFrom_cons_of_le {m : Nat} {p : RunPair} (buf : List Byte) (ps : List RunPair) (h : p.1 ≤ m) :
    tokenizeFrom m buf (p :: ps) = tokenizeFrom m (buf ++ expandRun p) ps := if_neg (Nat.not_lt.2 h)

@[simp] theorem mem_flushBuf {t : RunToken} {buf : List Byte} : t ∈ flushBuf buf ↔ buf ≠ [] ∧ t = .seq buf := by
  unfold flushBuf
  split_ifs with h <;> simp [h]

/-- The tokens R93 makes at threshold `m`: a repeat is longer than `m`, a sequence is not empty and holds no run longer than `m`. -/
def RunToken.fits (m : Nat) : RunToken → Prop
  | .rept count _ => m < count
  | .seq values => values ≠ [] ∧ ∀ p ∈ runLengths values, p.1 ≤ m

theorem RunToken.fits.expandToken_ne_nil {m : Nat} {t : RunToken} (h : t.fits m) : expandToken t ≠ [] := by
  cases t with
  | rept count v =>
    have hlt : m < count := h
    simp only [expandToken, ne_eq, List.replicate_eq_nil_iff]
    omega
  | seq values => exact h.1

/-- Token `b` may follow token `a` (R94): it begins with another byte, and they are not both sequences. -/
def MayFollow (a b : RunToken) : Prop :=
  (expandToken a).getLast? ≠ (expandToken b).head? ∧ ¬ ∃ v w, a = .seq v ∧ b = .seq w

/-- The runs `qs` in the pending buffer of R93, none longer than `m`, come just before the runs `ps` still to do. -/
structure Pending (m : Nat) (qs ps : List RunPair) : Prop where
  runs : MaximalRuns (qs ++ ps)
  short : ∀ q ∈ qs, q.1 ≤ m

theorem Pending.nil {m : Nat} {ps : List RunPair} (h : MaximalRuns ps) : Pending m [] ps := ⟨h, nofun⟩

theorem Pending.push {m : Nat} {p : RunPair} {qs ps : List RunPair} (h : Pending m qs (p :: ps)) (hp : p.1 ≤ m) :
    Pending m (qs ++ [p]) ps :=
  ⟨by rw [List.append_assoc]; exact h.runs,
    List.forall_mem_append.2 ⟨h.short, List.forall_mem_singleton.2 hp⟩⟩

theorem flushBuf_fits {m : Nat} {qs ps : List RunPair} (h : Pending m qs ps) :
    ∀ t ∈ flushBuf (qs.flatMap expandRun), t.fits m := by
  intro t ht
  obtain ⟨hne, rfl⟩ := mem_flushBuf.1 ht
  refine ⟨hne, ?_⟩
  rw [runLengths_expandRuns h.runs.left]
  exact h.short

theorem flushBuf_isChain (R : RunToken → RunToken → Prop) (buf : List Byte) : (flushBuf buf).IsChain R := by
  unfold flushBuf
  split_ifs
  · exact .nil
  · exact .singleton _

/-- The flushed buffer may stand before the repeat that flushes it. -/
theorem flushBuf_mayFollow {m : Nat} {p : RunPair} {qs ps : List RunPair} (h : Pending m qs (p :: ps)) :
    ∀ a ∈ flushBuf (qs.flatMap expandRun), MayFollow a (.rept p.1 p.2) := by
  intro a ha
  obtain ⟨hne, rfl⟩ := mem_flushBuf.1 ha
  have hqs : qs ≠ [] := fun hnil => hne (by rw [hnil, List.flatMap_nil])
  have hpos := h.runs.right.pos p List.mem_cons_self
  have hrun : expandRun p ≠ [] := fun hnil => by have := (expandRun_eq_nil_iff p).1 hnil; omega
  have hseam := h.runs.getLast?_ne_head? hqs
  rw [List.flatMap_cons, List.head?_append_of_ne_nil _ hrun] at hseam
  exact ⟨hseam, by simp⟩

/-- The first token of the runs after a repeat may follow it. -/
theorem mayFollow_rept {p : RunPair} {ps : List RunPair} {ts : List RunToken} (h : MaximalRuns (p :: ps))
    (hexp : ts.flatMap expandToken = ps.flatMap expandRun) (hne : ∀ t ∈ ts, expandToken t ≠ []) :
    ∀ b ∈ ts.head?, MayFollow (.rept p.1 p.2) b := by
  intro b hb
  have hhead : (expandToken b).head? = (ps.flatMap expandRun).head? := by
    rw [← hexp, List.eq_cons_of_mem_head? hb, List.flatMap_cons,
      List.head?_append_of_ne_nil _ (hne b (List.mem_of_mem_head? hb))]
  have hseam := MaximalRuns.getLast?_ne_head? (qs := [p]) h (List.cons_ne_nil p [])
  rw [List.flatMap_singleton, ← hhead] at hseam
  exact ⟨hseam, by simp⟩

/-- The loop of R93 makes tokens of the two kinds that follow one another as R94 says. -/
theorem tokenizeFrom_fits_isChain {m : Nat} (ps : List RunPair) : ∀ qs : List RunPair, Pending m qs ps →
    (∀ t ∈ tokenizeFrom m (qs.flatMap expandRun) ps, t.fits m) ∧
      (tokenizeFrom m (qs.flatMap expandRun) ps).IsChain MayFollow := by
  induction ps with
  | nil => exact fun qs h => ⟨flushBuf_fits h, flushBuf_isChain MayFollow _⟩
  | cons p ps ih =>
    intro qs h
    rcases Nat.lt_or_ge m p.1 with hp | hp
    · rw [tokenizeFrom_cons_of_lt _ _ hp]
      have htail : MaximalRuns ([p] ++ ps) := h.runs.right
      obtain ⟨hfits, hchain⟩ := ih [] (.nil htail.right)
      have hrept := mayFollow_rept htail (tokenizeFrom_expand m ps []) fun t ht => (hfits t ht).expandToken_ne_nil
      have hflush := flushBuf_mayFollow h
      refine ⟨List.forall_mem_append.2 ⟨flushBuf_fits h, List.forall_mem_cons.2 ⟨hp, hfits⟩⟩, ?_⟩
      refine (flushBuf_isChain MayFollow _).append (hchain.cons hrept) fun a ha b hb => ?_
      obtain rfl : RunToken.rept p.1 p.2 = b := Option.some_inj.1 hb
      exact hflush a (List.mem_of_mem_getLast? ha)
    · have hbuf : (qs ++ [p]).flatMap expandRun = qs.flatMap expandRun ++ expandRun p := by simp
      rw [tokenizeFrom_cons_of_le _ _ hp, ← hbuf]
      exact ih (qs ++ [p]) (h.push hp)

/-- Settles O42: the loop's invariant from the empty buffer. -/
theorem tokensPartitionTheInput : Obligations.TokensPartitionTheInput := by
  unfold Obligations.TokensPartitionTheInput
  intro s m
  obtain ⟨hfits, hchain⟩ := tokenizeFrom_fits_isChain (runLengths s) [] (.nil (m := m) (runLengths_maximal s))
  exact ⟨tokenize_runLengths_expand s m, fun count value => hfits (.rept count value), fun values => hfits (.seq values),
    fun k a b ha hb => (rel_of_getElem?_succ hchain ha hb).1,
    fun k v w ⟨hv, hw⟩ => (rel_of_getElem?_succ hchain hv hw).2 ⟨v, w, rfl, rfl⟩⟩

/-! ### The records of a token (41_rle.md R95 to R97) -/

theorem chunkSizes_of_le {n : Nat} (hpos : 1 ≤ n) (hle : n ≤ 128) : chunkSizes n = [n] := by
  have hdiv : (n - 1) / 128 = 0 := by omega
  rw [chunkSizes, if_neg (by omega), hdiv]
  rfl

theorem chunkSizes_of_lt {n : Nat} (h : 128 < n) : chunkSizes n = 128 :: chunkSizes (n - 128) := by
  have hdiv : (n - 1) / 128 = (n - 128 - 1) / 128 + 1 := by omega
  have hlast : n - 128 * ((n - 128 - 1) / 128 + 1) = n - 128 - 128 * ((n - 128 - 1) / 128) := by omega
  rw [chunkSizes, chunkSizes, if_neg (by omega), if_neg (by omega), hdiv, hlast, List.replicate_succ, List.cons_append]

theorem chunkSizes_length (n : Nat) : (chunkSizes n).length = (n + 127) / 128 := by
  unfold chunkSizes
  split_ifs with hn
  · rw [hn]; rfl
  · rw [List.length_append, List.length_replicate, List.length_singleton]
    omega

theorem repeatRecordBytes_eq {k : Nat} (v : Byte) (h : 1 ≤ k ∧ k ≤ 128) :
    repeatRecordBytes k v = [BitVec.ofNat 8 (0x80 + (k - 1)), v] := by
  have hhdr : 0x80#8 ||| BitVec.ofNat 8 (k - 1) = BitVec.ofNat 8 (0x80 + (k - 1)) := by
    rw [← repeatHeader_ofNat h]
    apply BitVec.eq_of_toNat_eq
    rw [repeatHeader_toNat, BitVec.toNat_ofNat, BitVec.toNat_ofNat]
    omega
  rw [repeatRecordBytes, hhdr]

theorem serRepeat_of_le {f : Byte → Byte} {count : Nat} (v : Byte) (hpos : 1 ≤ count) (hle : count ≤ 128) :
    serRepeat f count v = [BitVec.ofNat 8 (0x80 + (count - 1)), f v] := by
  rw [serRepeat, chunkSizes_of_le hpos hle, List.flatMap_singleton, repeatRecordBytes_eq _ ⟨hpos, hle⟩]

theorem serRepeat_of_lt {f : Byte → Byte} {count : Nat} (v : Byte) (h : 128 < count) :
    serRepeat f count v = 0xFF :: f v :: serRepeat f (count - 128) v := by
  have hfirst : repeatRecordBytes 128 (f v) = [0xFF, f v] := rfl
  rw [serRepeat, serRepeat, chunkSizes_of_lt h, List.flatMap_cons, hfirst, List.cons_append, List.cons_append, List.nil_append]

/-- Settles O43: the first record takes 128 units or all there are. -/
theorem repeatTokenIsChunked : Obligations.RepeatTokenIsChunked := by
  unfold Obligations.RepeatTokenIsChunked
  intro f count value hpos
  exact ⟨serRepeat_of_le value hpos, serRepeat_of_lt value, by rw [serRepeat_length, chunkSizes_length]⟩

theorem serChunks_length (f : Byte → Byte) (ks : List Nat) : ∀ values : List Byte, ks.sum = values.length →
    (serChunks f ks values).length = values.length + ks.length := by
  induction ks with
  | nil => exact fun values h => h
  | cons k ks ih =>
    intro values h
    rw [List.sum_cons] at h
    have htail := ih (values.drop k) (by rw [List.length_drop]; omega)
    rw [List.length_drop] at htail
    simp only [serChunks, List.length_append, List.length_cons, List.length_map, List.length_take, htail]
    omega

theorem serSequence_length (f : Byte → Byte) (values : List Byte) :
    (serSequence f values).length = values.length + (values.length + 127) / 128 := by
  rw [serSequence, serChunks_length f _ _ (chunkSizes_sum _), chunkSizes_length]

theorem serSequence_of_le {f : Byte → Byte} {values : List Byte} (hne : values ≠ []) (hle : values.length ≤ 128) :
    serSequence f values = BitVec.ofNat 8 (values.length - 1) :: values.map f := by
  rw [serSequence, chunkSizes_of_le (List.length_pos_iff.2 hne) hle, serChunks, serChunks, List.take_length,
    List.append_nil]

theorem serSequence_of_lt {f : Byte → Byte} {values : List Byte} (h : 128 < values.length) :
    serSequence f values = 0x7F :: ((values.take 128).map f ++ serSequence f (values.drop 128)) := by
  rw [serSequence, chunkSizes_of_lt h, serChunks, serSequence, List.length_drop]
  rfl

/-- Settles O44: the first record takes 128 values or all there are. -/
theorem sequenceTokenIsChunked : Obligations.SequenceTokenIsChunked := by
  unfold Obligations.SequenceTokenIsChunked
  exact fun f values hne => ⟨serSequence_of_le hne, serSequence_of_lt, serSequence_length f values⟩

/-! ### The length of the stream (41_rle.md R103) -/

theorem two_le_encode_length {i : Instr} (hwf : i.wf = true) (hp : i.place = .hdr) : 2 ≤ (encode i).length := by
  cases i with
  | repeatRecord lm1 v => exact Nat.le_refl 2
  | sequenceRecord lm1 values =>
    have hlen := (sequenceRecord_wf lm1 values).1 hwf
    rw [encode, List.length_cons]
    omega
  | _ => cases hp

theorem IsRecordStream.two_le_length {stream out : List Byte} (h : IsRecordStream stream out) (hne : out ≠ []) :
    2 ≤ stream.length := by
  obtain ⟨records, hrecords, rfl, rfl⟩ := h
  cases records with
  | nil => exact absurd rfl hne
  | cons i records =>
    obtain ⟨hwf, hp⟩ := hrecords i List.mem_cons_self
    have := two_le_encode_length hwf hp
    rw [List.flatMap_cons, List.length_append]
    omega

/-- Where no neighbours are equal, every byte is a run of its own. -/
theorem runLengths_of_isChain_ne {s : List Byte} (h : s.IsChain (· ≠ ·)) : runLengths s = s.map fun b => (1, b) := by
  have hexp : (s.map fun b => (1, b)).flatMap expandRun = s := by
    simp [List.flatMap_map, expandRun]
  have hmax : MaximalRuns (s.map fun b => (1, b)) := ⟨by simp, (List.isChain_map _).2 h⟩
  rw [← runLengths_expandRuns hmax, hexp]

theorem runLengths_replicate {n : Nat} (v : Byte) (hn : 1 ≤ n) : runLengths (List.replicate n v) = [(n, v)] := by
  have h := runLengths_expandRuns (ps := [(n, v)]) ⟨by simpa using hn, .singleton _⟩
  rwa [List.flatMap_singleton] at h

/-- At threshold 0 every run is a repeat. -/
theorem tokenize_zero {ps : List RunPair} (hpos : ∀ p ∈ ps, 1 ≤ p.1) :
    tokenize ps 0 = ps.map fun p => .rept p.1 p.2 := by
  induction ps with
  | nil => rfl
  | cons p ps ih =>
    obtain ⟨hp, hps⟩ := List.forall_mem_cons.1 hpos
    rw [tokenize, tokenizeFrom_cons_of_lt _ _ hp, ← tokenize, ih hps]
    rfl

theorem rleEncode_length_of_isChain_ne {s : List Byte} (tag : Word) (h : s.IsChain (· ≠ ·)) :
    (rleEncode s 0 tag).length = 2 * s.length := by
  have hpos : ∀ p ∈ s.map fun b => ((1, b) : RunPair), 1 ≤ p.1 := by simp
  rw [rleEncode, runLengths_of_isChain_ne h, tokenize_zero hpos]
  simp [serialize, List.length_flatMap, serToken, serRepeat_length, chunkSizes_length, Function.comp_def, Nat.mul_comm]

theorem rleEncode_length_replicate {n m : Nat} (v : Byte) (tag : Word) (hle : n ≤ 128) (hm : m < n) :
    (rleEncode (List.replicate n v) m tag).length = 2 := by
  rw [rleEncode, runLengths_replicate v (by omega), tokenize, tokenizeFrom_cons_of_lt _ _ hm]
  change (serRepeat (xfByte tag) n v ++ []).length = 2
  rw [List.append_nil, serRepeat_of_le v (by omega) hle]
  rfl

/-- Settles O46: a record has two bytes or more, and a token costs at most two bytes for each of its own. -/
theorem rleOutputLengthBounds : Obligations.RleOutputLengthBounds := by
  unfold Obligations.RleOutputLengthBounds
  intro s m tag hne
  have hle := rleEncode_length_le s m tag
  refine ⟨(rleEncode_isRecordStream s m tag).two_le_length (by simpa using hne), hle, fun p hp => ?_, fun hm hdistinct => ?_,
    fun v hv hlen hm => ?_⟩
  · unfold obufSize
    omega
  · rw [hm]
    exact rleEncode_length_of_isChain_ne tag (isChain_of_getElem?_succ hdistinct)
  · rw [hv]
    exact rleEncode_length_replicate v tag hlen hm

/-! ### The reference decoder (41_rle.md R101) -/

/-- A record takes a byte or more off the stream. -/
theorem length_lt_of_decodeHdr {bytes rest : List Byte} {i : Instr} (h : decodeHdr bytes = .ok (i, rest)) :
    rest.length < bytes.length := by
  obtain ⟨hwf, hp, rfl⟩ := decodeHdr_eq_ok_iff.1 h
  have := two_le_encode_length hwf hp
  rw [List.length_append]
  omega

@[simp] theorem rleDecodeFuel_nil (n : Nat) : rleDecodeFuel n [] = some [] := by
  cases n <;> rfl

theorem rleDecodeFuel_of_ok {bytes rest : List Byte} {i : Instr} (n : Nat) (h : decodeHdr bytes = .ok (i, rest)) :
    rleDecodeFuel (n + 1) bytes = (rleDecodeFuel n rest).map (recordExpansion i ++ ·) := by
  cases bytes with
  | nil => cases h
  | cons b bs => rw [rleDecodeFuel, h]

theorem rleDecodeFuel_of_error {bytes : List Byte} {e : DecodeError} (n : Nat) (hne : bytes ≠ [])
    (h : decodeHdr bytes = .error e) : rleDecodeFuel (n + 1) bytes = none := by
  cases bytes with
  | nil => exact absurd rfl hne
  | cons b bs => rw [rleDecodeFuel, h]

/-- Any fuel that covers the stream's length decodes as much as any other. -/
theorem rleDecodeFuel_congr (n : Nat) : ∀ (m : Nat) (bytes : List Byte), bytes.length ≤ n → bytes.length ≤ m →
    rleDecodeFuel n bytes = rleDecodeFuel m bytes := by
  induction n with
  | zero =>
    intro m bytes hn _
    rw [List.length_eq_zero_iff.1 (Nat.le_zero.1 hn), rleDecodeFuel_nil, rleDecodeFuel_nil]
  | succ n ih =>
    intro m bytes hn hm
    by_cases hne : bytes = []
    · rw [hne, rleDecodeFuel_nil, rleDecodeFuel_nil]
    · obtain ⟨m, rfl⟩ := Nat.exists_eq_add_of_le' ((List.length_pos_iff.2 hne).trans_le hm)
      cases h : decodeHdr bytes with
      | error e => rw [rleDecodeFuel_of_error n hne h, rleDecodeFuel_of_error m hne h]
      | ok ir =>
        have hlt := length_lt_of_decodeHdr h
        rw [rleDecodeFuel_of_ok n h, rleDecodeFuel_of_ok m h, ih m ir.2 (by omega) (by omega)]

@[simp] theorem rleDecode_nil : rleDecode [] = some [] := rfl

theorem rleDecode_of_ok {bytes rest : List Byte} {i : Instr} (h : decodeHdr bytes = .ok (i, rest)) :
    rleDecode bytes = (rleDecode rest).map (recordExpansion i ++ ·) := by
  have hlt := length_lt_of_decodeHdr h
  obtain ⟨n, hn⟩ := Nat.exists_eq_add_of_le' (Nat.zero_lt_of_lt hlt)
  rw [rleDecode, rleDecode, hn, rleDecodeFuel_of_ok n h, rleDecodeFuel_congr n rest.length rest (by omega) (Nat.le_refl _)]

theorem rleDecode_of_error {bytes : List Byte} {e : DecodeError} (hne : bytes ≠ []) (h : decodeHdr bytes = .error e) :
    rleDecode bytes = none := by
  obtain ⟨n, hn⟩ := Nat.exists_eq_add_of_le' (List.length_pos_iff.2 hne)
  rw [rleDecode, hn]
  exact rleDecodeFuel_of_error n hne h

/-- A stream of records decodes to what the records expand to. -/
theorem IsRecordStream.rleDecode_eq {stream out : List Byte} (h : IsRecordStream stream out) : rleDecode stream = some out := by
  obtain ⟨records, hrecords, rfl, rfl⟩ := h
  induction records with
  | nil => rfl
  | cons i records ih =>
    obtain ⟨⟨hwf, hp⟩, hrecords⟩ := List.forall_mem_cons.1 hrecords
    rw [List.flatMap_cons, rleDecode_of_ok (decodeHdr_encode _ hwf hp), ih hrecords]
    rfl

/-- Settles O45: the encoder's output is a stream of records that expand to the transformed input, and a tag's byte function is
its own inverse. -/
theorem rleRoundTrip : Obligations.RleRoundTrip := by
  unfold Obligations.RleRoundTrip
  intro s m tag _
  have hdecode := (rleEncode_isRecordStream s m tag).rleDecode_eq
  refine ⟨hdecode, ?_⟩
  have hinv : xfByte tag ∘ xfByte tag = id := funext (xfByte_xfByte tag)
  rw [hdecode, Option.map_some, List.map_map, hinv, List.map_id]

/-! ### The consumer's records (41_rle.md R101) -/

/-- The consumer after one turn of the decoder's loop, in front of the record `i` (R101). -/
def Consumer.take (i : Instr) (c : Consumer) : Consumer :=
  { c with out := c.out ++ recordExpansion i, pos := c.pos + (encode i).length }

/-- A record row is one turn of the decoder's loop: it moves past the bytes of the record's encoding (R69, R70). -/
theorem exec_of_hdr {i : Instr} (s : State) (hp : i.place = .hdr) :
    exec i s = .next (setConsumer (s.consumer.take i) s) := by
  cases i with
  | repeatRecord lm1 value => rfl
  | sequenceRecord lm1 values =>
    rw [Consumer.take, encode, List.length_cons, Nat.add_comm values.length]
    rfl
  | _ => cases hp

/-- The part of the emitted array that the consumer has still to decode. -/
def Consumer.rest (c : Consumer) : List Byte := c.array.drop c.pos

/-- How many bytes the consumer can still decode: none after a failure. -/
def Consumer.left (c : Consumer) : Nat := if c.failed then 0 else c.rest.length

/-- What `rle_decode` ends with if it goes on from where the consumer stands (R101). -/
def Consumer.result (c : Consumer) : Option (List Byte) :=
  if c.failed then none else (rleDecode c.rest).map (c.out ++ ·)

theorem Consumer.rest_take {c : Consumer} {i : Instr} {more : List Byte} (h : decodeHdr c.rest = .ok (i, more)) :
    (c.take i).rest = more := by
  obtain ⟨-, -, hbytes⟩ := decodeHdr_eq_ok_iff.1 h
  calc (c.take i).rest
    _ = c.rest.drop (encode i).length := List.drop_drop.symm
    _ = more := by rw [← hbytes, List.drop_left]

/-- A turn of the loop keeps what the decoder ends with. -/
theorem Consumer.result_take {c : Consumer} {i : Instr} {more : List Byte} (h : decodeHdr c.rest = .ok (i, more)) :
    (c.take i).result = c.result := by
  unfold Consumer.result
  rw [Consumer.rest_take h, rleDecode_of_ok h, Option.map_map]
  simp [Consumer.take, Function.comp_def]

theorem Consumer.left_take {c : Consumer} {i : Instr} {more : List Byte} (h : decodeHdr c.rest = .ok (i, more)) :
    (c.take i).left ≤ c.left - 1 := by
  have hlt := length_lt_of_decodeHdr h
  have hfailed : (c.take i).failed = c.failed := rfl
  unfold Consumer.left
  rw [Consumer.rest_take h, hfailed]
  split_ifs <;> omega

/-- A consumer with nothing left has failed, or holds the decoder's output. -/
theorem Consumer.result_of_left_eq_zero {c : Consumer} (h : c.left = 0) :
    c.result = if c.failed then none else some c.out := by
  unfold Consumer.left at h
  unfold Consumer.result
  split_ifs at h ⊢
  · rfl
  · simp [List.length_eq_zero_iff.1 h]

/-- What a record event does: nothing when nothing is left, a turn of the loop on a whole record, and failure on a cut one. -/
theorem recordAction_cases (c : Consumer) :
    (recordAction c = .wait ∧ c.left = 0) ∨
    (∃ i more, recordAction c = .instr i ∧ decodeHdr c.rest = .ok (i, more)) ∨
    (recordAction c = .cut ∧ c.result = none) := by
  unfold recordAction
  split_ifs with hfail hend
  · exact .inl ⟨rfl, if_pos hfail⟩
  · refine .inl ⟨rfl, ?_⟩
    simp [Consumer.left, Consumer.rest, hend]
  · have hne : c.rest ≠ [] := fun h => hend (List.drop_eq_nil_iff.1 h)
    cases h : decodeHdr c.rest with
    | ok ir => exact .inr (.inl ⟨ir.1, ir.2, by rw [← Consumer.rest, h], rfl⟩)
    | error e =>
      refine .inr (.inr ⟨by rw [← Consumer.rest, h], ?_⟩)
      simp [Consumer.result, rleDecode_of_error hne h]

/-- A record event changes the consumer alone; what the decoder ends with stays, and a byte or more of what is left is decoded. -/
theorem step_record {s : State} {events : List Event} (hcfg : Config.wellFormed s.cfg = true) (hidle : s.phase = .idle)
    (hprog : s.program = .record :: events) :
    ∃ c : Consumer, step s = .next (setConsumer c (popTo events s)) ∧ c.result = s.consumer.result ∧
      c.left ≤ s.consumer.left - 1 := by
  have hdue : completionDue s = false := by simp [completionDue, (isBusy_eq_false s).2 hidle]
  have hstep : step s = perform (recordAction s.consumer) (popTo events s) := by
    rw [step_eq_perform s hcfg, fetch, hprog]
    simp [hdue]
  rcases recordAction_cases s.consumer with ⟨hact, hleft⟩ | ⟨i, more, hact, hrec⟩ | ⟨hact, hnone⟩ <;> rw [hact] at hstep
  · exact ⟨s.consumer, hstep, rfl, by omega⟩
  · exact ⟨s.consumer.take i, hstep.trans (exec_of_hdr _ (decodeHdr_place hrec)), Consumer.result_take hrec,
      Consumer.left_take hrec⟩
  · exact ⟨{ s.consumer with failed := true }, hstep, hnone.symm, Nat.zero_le _⟩

theorem run_succ_of_step {s t : State} (n : Nat) (h : step s = .next t) : core.run (n + 1) s = core.run n t := by
  have hcore : core.step s = .next t := h
  simp only [Host.Core.run, hcore]

/-- `n` record events take the consumer to the end of `n` bytes or fewer, and change nothing of the block. -/
theorem run_records (n : Nat) : ∀ s : State, Config.wellFormed s.cfg = true → s.phase = .idle →
    s.program = List.replicate n .record → s.consumer.left ≤ n →
    ∃ t, core.run n s = .next t ∧ blockPart t = blockPart s ∧ t.consumer.result = s.consumer.result ∧
      t.consumer.left = 0 := by
  induction n with
  | zero => exact fun s _ _ _ hleft => ⟨s, rfl, rfl, rfl, Nat.le_zero.1 hleft⟩
  | succ n ih =>
    intro s hcfg hidle hprog hleft
    obtain ⟨c, hstep, hresult, hdecr⟩ := step_record hcfg hidle hprog
    have hle : c.left ≤ n := by omega
    obtain ⟨t, hrun, hblock, htresult, htleft⟩ := ih (setConsumer c (popTo (List.replicate n .record) s)) hcfg hidle rfl hle
    exact ⟨t, (run_succ_of_step n hstep).trans hrun, hblock, htresult.trans hresult, htleft⟩

/-- Settles O49: the run keeps what the decoder ends with, and at the start that is `rle_decode` of the array. -/
theorem consumerRunIsTheReferenceDecoder : Obligations.ConsumerRunIsTheReferenceDecoder := by
  unfold Obligations.ConsumerRunIsTheReferenceDecoder
  intro s n hcfg hidle hprog hlen hpos hout hok
  have hstart : s.consumer.result = rleDecode s.consumer.array := by
    simp [Consumer.result, Consumer.rest, hok, hpos, hout]
  have hleft : s.consumer.left ≤ n := by
    simpa [Consumer.left, Consumer.rest, hok, hpos] using hlen
  obtain ⟨t, hrun, hblock, hresult, hend⟩ := run_records n s hcfg hidle hprog hleft
  rw [hstart, Consumer.result_of_left_eq_zero hend] at hresult
  refine ⟨t, hrun, hblock, fun out hdec => ?_, fun hdec => ?_⟩
  · simpa [hdec, and_comm] using hresult
  · simpa [hdec] using hresult

/-- R73, R130: the level of a lane is the byte read as a signed number. -/
theorem laneLevel_eq_toInt (b : Byte) : laneLevel b = b.toInt := by
  rw [laneLevel, BitVec.toInt_eq_toNat_cond]
  split_ifs <;> omega

/-- Settles O48: a record's size is the length of its encoding, and a level is a lane read as a signed number. -/
theorem streamRowsFeedTheConsumer : Obligations.StreamRowsFeedTheConsumer := by
  unfold Obligations.StreamRowsFeedTheConsumer
  intro s
  refine ⟨fun lm1 value => rfl, fun lm1 values hwf => ?_, fun q0 q1 q2 q3 => ?_⟩
  · rw [← (sequenceRecord_wf lm1 values).1 hwf]
    rfl
  · simp only [← laneLevel_eq_toInt]
    rfl

/-! ### The completion step and its declared inputs (41_rle.md R105, 42_dct.md R123, 44_commands.md R144) -/

/-- A command word with a `BUSY` phase decodes to the row that runs it. -/
theorem exec_decodeCmd {w : Word} (s : State) (h0 : w ≠ 0) (h3 : w ≠ 3) : exec (decodeCmd w) s = .next (runCommand w s) := by
  unfold decodeCmd
  rw [if_neg h0, if_neg h3]
  split_ifs with h1 h2
  · rw [h1]; rfl
  · rw [h2]; rfl
  · rfl

theorem runCommand_of_busy {op : Word} {s : State} (hb : s.phase = .busy) (hop : s.curOp = op) :
    runCommand op s = complete s := by
  rw [runCommand, if_pos ((isBusy_eq_true s).2 hb), if_pos hop]

theorem complete_of_checks_some {s : State} {e : ErrKind} (h : checks s.cfg s.curOp s.bpp s.xform s.len = some e) :
    complete s = raiseError e s := by
  rw [complete, h]

theorem complete_of_checks_none {s : State} (h : checks s.cfg s.curOp s.bpp s.xform s.len = none) :
    complete s = finish (commandWork s) := by
  rw [complete, h]

/-- `DCTQ` is checked for its depth alone (60_exceptions.md R164). -/
theorem checks_dctq (p : Params) (bpp xform len : Word) :
    checks p 2 bpp xform len = if bpp ≠ 8 then some .unsupportedConfiguration else none := by
  simp [checks]

theorem commandWork_rle {s : State} {bytes : List Byte} (hop : s.curOp = 1) (hin : rleInput s = some bytes) :
    commandWork s = writeOutput (rleEncode bytes s.minseq.toNat s.xform) s := by
  rw [commandWork, if_pos hop, rleWork, hin]

theorem commandWork_dctq {s : State} {bytes : List Byte} (hop : s.curOp = 2) (hin : dctqInput s = some bytes) :
    commandWork s = writeOutput (wordBytes (dctqBlock s.cfg bytes)) s := by
  rw [commandWork, if_neg (by rw [hop]; decide), if_pos hop, dctqWork, hin]

theorem statusWord_finish_congr {s t : State} (h : s.err = t.err) : statusWord (finish s) = statusWord (finish t) := by
  simp [statusWord, State.isBusy, h]

/-- The final states `s'` and `t'` of a command running in `s` hold the same report and, if no check of `s` fails, the same
output. -/
structure SameResult (s s' t' : State) : Prop where
  status : statusWord s' = statusWord t'
  errcode : s'.errcode = t'.errcode
  outlen : s'.outlen = t'.outlen
  output : checks s.cfg s.curOp s.bpp s.xform s.len = none →
    ∀ k, k < s'.outlen.toNat → s'.mem.read (obufBase + k) = t'.mem.read (obufBase + k)

/-- Two completion steps with the same checks, the same report and the same output of their work end alike. -/
theorem complete_sameResult {s t : State} {out : List Byte}
    (hchecks : checks t.cfg t.curOp t.bpp t.xform t.len = checks s.cfg s.curOp s.bpp s.xform s.len)
    (herr : s.err = t.err) (hcode : s.errcode = t.errcode) (hlen : s.outlen = t.outlen)
    (hs : commandWork s = writeOutput out s) (ht : commandWork t = writeOutput out t) :
    SameResult s (complete s) (complete t) := by
  cases hc : checks s.cfg s.curOp s.bpp s.xform s.len with
  | some e =>
    rw [complete_of_checks_some hc, complete_of_checks_some (hchecks.trans hc)]
    exact ⟨statusWord_finish_congr rfl, rfl, hlen, fun hnone => by simp [hc] at hnone⟩
  | none =>
    rw [complete_of_checks_none hc, complete_of_checks_none (hchecks.trans hc), hs, ht]
    refine ⟨statusWord_finish_congr herr, hcode, rfl, fun _ k hk => ?_⟩
    have hlt : k < out.length := lt_of_lt_of_le hk (Nat.mod_le _ _)
    rw [finish_mem, finish_mem, writeOutput_read_inside out s k hlt, writeOutput_read_inside out t k hlt]

/-- Settles O19: the checks and the work of each command are functions of its declared inputs. -/
theorem resultDependsOnDeclaredInputsOnly : Obligations.ResultDependsOnDeclaredInputsOnly := by
  unfold Obligations.ResultDependsOnDeclaredInputsOnly
  intro s t op n bytes hop hbs hbt hops hopt hcfg hbpp hconf herr hcode hlen hbytes hmem
  have hs : inputBytes n s = some bytes := (memory_readBytes_eq_some _ _ _ _).2 ⟨hbytes, fun k hk => (hmem k hk).1⟩
  have ht : inputBytes n t = some bytes := (memory_readBytes_eq_some _ _ _ _).2 ⟨hbytes, fun k hk => (hmem k hk).2⟩
  have hsame : SameResult s (complete s) (complete t) := by
    rcases hop with ⟨rfl, rfl⟩ | ⟨rfl, rfl⟩
    · obtain ⟨hminseq, hxform, hinlen⟩ := hconf rfl
      have hwork := commandWork_rle hopt (bytes := bytes) (by rw [rleInput, ← hinlen]; exact ht)
      rw [← hminseq, ← hxform] at hwork
      exact complete_sameResult (by rw [hops, hopt, hcfg, hbpp, hxform, hinlen]) herr hcode hlen (commandWork_rle hops hs) hwork
    · have hwork := commandWork_dctq hopt ht
      rw [← hcfg] at hwork
      exact complete_sameResult (by rw [hops, hopt, checks_dctq, checks_dctq, hbpp]) herr hcode hlen (commandWork_dctq hops hs)
        hwork
  have h03 : op ≠ 0 ∧ op ≠ 3 := by
    rcases hop with ⟨rfl, -⟩ | ⟨rfl, -⟩ <;> decide
  rw [exec_decodeCmd s h03.1 h03.2, exec_decodeCmd t h03.1 h03.2, runCommand_of_busy hbs hops, runCommand_of_busy hbt hopt]
  exact ⟨_, _, rfl, rfl, hsame.status, hsame.errcode, hsame.outlen, hops ▸ hsame.output⟩

end Sys2Proof.Machine

namespace Sys2Proof.Machine

/-! ### The DCT is an orthogonal matrix (42_dct.md R110 to R118)

The transforms of R110, R111, R113 and R114 are products with one real matrix and its transpose. That the two are inverse to each other
is the orthogonality of the cosines, which comes down to the sums of one cosine over the sample points. -/

/-- The sum over the `N` sample points of R110 of the cosine of index `m`. -/
noncomputable def cosSum (N : Nat) (m : Int) : ℝ := ∑ n : Fin N, Real.cos (Real.pi / N * m * (n.val + 0.5))

@[simp] theorem cosSum_zero (N : Nat) : cosSum N 0 = N := by simp [cosSum]

/-- Times `sin (a / 2)`, with `a = m pi / N`, the sum telescopes to `sin (N a) / 2`, and `N a` is a multiple of `pi`. -/
theorem sin_mul_cosSum (N : Nat) (m : Int) : Real.sin (Real.pi / N * m / 2) * cosSum N m = 0 := by
  rcases Nat.eq_zero_or_pos N with rfl | hN
  · simp [cosSum]
  have hN' : (N : ℝ) ≠ 0 := by positivity
  have hsum : cosSum N m = ∑ n ∈ Finset.range N, Real.cos (Real.pi / N * m * n + Real.pi / N * m / 2) := by
    rw [cosSum, Fin.sum_univ_eq_sum_range (fun n => Real.cos (Real.pi / N * m * (n + 0.5)))]
    exact Finset.sum_congr rfl fun n _ => congrArg Real.cos (by ring)
  have hhalf : (N : ℝ) * (Real.pi / N * m) / 2 = m * Real.pi / 2 := by field_simp
  have hmid : ((N : ℝ) - 1) * (Real.pi / N * m) / 2 + Real.pi / N * m / 2 = m * Real.pi / 2 := by field_simp; ring
  have hdouble := Real.sin_two_mul (m * Real.pi / 2)
  rw [mul_div_cancel₀ _ two_ne_zero, Real.sin_int_mul_pi] at hdouble
  rw [hsum, Real.sin_mul_sum_cos, hhalf, hmid]
  linarith

/-- Below the frequency of the samples, a cosine that is not constant sums to 0. -/
theorem cosSum_eq_zero {N : Nat} {m : Int} (hm : m ≠ 0) (hlt : |m| < 2 * N) : cosSum N m = 0 := by
  obtain ⟨hlo, hhi⟩ := abs_lt.1 hlt
  have hlo' : -(2 * N : ℝ) < m := by exact_mod_cast hlo
  have hhi' : (m : ℝ) < 2 * N := by exact_mod_cast hhi
  have hN : (0 : ℝ) < N := by linarith
  have hangle : Real.pi / N * m / 2 = Real.pi * (m / (2 * N)) := by field_simp
  have hsin : Real.sin (Real.pi / N * m / 2) ≠ 0 := by
    rw [hangle, Ne, Real.sin_eq_zero_iff_of_lt_of_lt]
    · simp [Real.pi_ne_zero, hm, hN.ne']
    · have : -1 < (m : ℝ) / (2 * N) := by rw [lt_div_iff₀ (by positivity)]; linarith
      nlinarith [Real.pi_pos]
    · have : (m : ℝ) / (2 * N) < 1 := by rw [div_lt_one (by positivity)]; exact hhi'
      nlinarith [Real.pi_pos]
  exact (mul_eq_zero.1 (sin_mul_cosSum N m)).resolve_left hsin

/-- The product rule of R121, summed over the sample points. -/
theorem two_mul_sum_cos_mul_cos (N j k : Nat) :
    2 * ∑ n : Fin N, Real.cos (Real.pi / N * j * (n.val + 0.5)) * Real.cos (Real.pi / N * k * (n.val + 0.5)) =
      cosSum N (j - k) + cosSum N (j + k) := by
  rw [cosSum, cosSum, Finset.mul_sum, ← Finset.sum_add_distrib]
  refine Finset.sum_congr rfl fun n _ => ?_
  rw [← mul_assoc, Real.two_mul_cos_mul_cos]
  push_cast
  ring_nf

theorem dctC_zero : dctC 0 = 1 / √2 := rfl

theorem dctC_zero_mul_self : dctC 0 * dctC 0 = 1 / 2 := by
  rw [dctC_zero, div_mul_div_comm, Real.mul_self_sqrt zero_le_two, one_mul]

theorem dctC_of_ne_zero {k : Nat} (hk : k ≠ 0) : dctC k = 1 := if_neg hk

theorem dctScale_eq (N k : Nat) : dctScale N k = dctC k * √(2 / N) := by
  simp only [dctScale, dctC, ite_mul, one_mul]

theorem dctScale_mul_dctScale (N j k : Nat) : dctScale N j * dctScale N k = dctC j * dctC k * (2 / N) := by
  rw [dctScale_eq, dctScale_eq, mul_mul_mul_comm, Real.mul_self_sqrt (by positivity)]

/-- The matrix of R110: row `k` is the scaled cosine of frequency `k`. -/
noncomputable def dctMatrix (N : Nat) : Matrix (Fin N) (Fin N) ℝ :=
  Matrix.of fun k n => dctScale N k.val * Real.cos (Real.pi / N * k.val * (n.val + 0.5))

theorem dctMatrix_apply {N : Nat} (k n : Fin N) :
    dctMatrix N k n = dctScale N k.val * Real.cos (Real.pi / N * k.val * (n.val + 0.5)) := rfl

/-- The scales of two entries multiply to the factor of R113. -/
theorem dctMatrix_apply_mul_apply {N : Nat} (j k m n : Fin N) :
    dctMatrix N j m * dctMatrix N k n = dctC j.val * dctC k.val * (2 / N) *
      (Real.cos (Real.pi / N * j.val * (m.val + 0.5)) * Real.cos (Real.pi / N * k.val * (n.val + 0.5))) := by
  rw [dctMatrix_apply, dctMatrix_apply, mul_mul_mul_comm, dctScale_mul_dctScale]

theorem dctMatrix_mul_transpose_apply {N : Nat} (j k : Fin N) :
    (dctMatrix N * (dctMatrix N).transpose) j k =
      dctC j.val * dctC k.val / N * (cosSum N (j.val - k.val) + cosSum N (j.val + k.val)) := by
  simp only [Matrix.mul_apply, Matrix.transpose_apply, dctMatrix_apply_mul_apply]
  rw [← Finset.mul_sum, ← two_mul_sum_cos_mul_cos]
  ring

/-- The rows of the matrix are orthonormal (R112). -/
theorem dctMatrix_mul_transpose (N : Nat) : dctMatrix N * (dctMatrix N).transpose = 1 := by
  ext j k
  have hN : (N : ℝ) ≠ 0 := Nat.cast_ne_zero.2 j.pos.ne'
  rw [dctMatrix_mul_transpose_apply]
  rcases eq_or_ne j k with rfl | hjk
  · rw [Matrix.one_apply_eq, sub_self, cosSum_zero]
    rcases eq_or_ne j.val 0 with hj | hj
    · rw [hj, dctC_zero_mul_self, Nat.cast_zero, add_zero, cosSum_zero]
      field_simp
      norm_num
    · rw [cosSum_eq_zero (by omega) (by rw [abs_lt]; omega), dctC_of_ne_zero hj]
      field_simp
      norm_num
  · have hne : j.val ≠ k.val := Fin.val_ne_of_ne hjk
    rw [Matrix.one_apply_ne hjk, cosSum_eq_zero (by omega) (by rw [abs_lt]; omega),
      cosSum_eq_zero (by omega) (by rw [abs_lt]; omega), add_zero, mul_zero]

theorem transpose_mul_dctMatrix (N : Nat) : (dctMatrix N).transpose * dctMatrix N = 1 :=
  mul_eq_one_comm.1 (dctMatrix_mul_transpose N)

/-- The forward transform is the product with the matrix (R110). -/
theorem dct_eq_mulVec {N : Nat} (x : Fin N → ℝ) : dct x = (dctMatrix N).mulVec x := by
  funext k
  simp only [dct, Matrix.mulVec, dotProduct, dctMatrix_apply, Finset.mul_sum]
  exact Finset.sum_congr rfl fun n _ => by ring

/-- The inverse transform is the product with the transposed matrix (R111). -/
theorem idct_eq_mulVec {N : Nat} (X : Fin N → ℝ) : idct X = (dctMatrix N).transpose.mulVec X := by
  funext n
  simp only [idct, Matrix.mulVec, dotProduct, Matrix.transpose_apply, dctMatrix_apply, dctScale]
  refine Finset.sum_congr rfl fun k _ => ?_
  split <;> ring

/-- Settles O50: the matrix of the forward transform is orthogonal. -/
theorem inverseDctUndoesDct : Obligations.InverseDctUndoesDct := by
  unfold Obligations.InverseDctUndoesDct
  intro N x
  rw [dct_eq_mulVec, idct_eq_mulVec, Matrix.mulVec_mulVec, transpose_mul_dctMatrix, Matrix.one_mulVec]

/-- One term of the two-dimensional sums is a product of two entries of the matrix: R113 writes the angle of R110 over one fraction. -/
theorem dct2d_factor {N : Nat} (u v r c : Fin N) :
    dctC u.val * dctC v.val * (2 / N) * (Real.cos (Real.pi * u.val * (2 * r.val + 1) / (2 * N)) *
      Real.cos (Real.pi * v.val * (2 * c.val + 1) / (2 * N))) = dctMatrix N u r * dctMatrix N v c := by
  have hangle (k n : Fin N) : Real.pi * k.val * (2 * n.val + 1) / (2 * N) = Real.pi / N * k.val * (n.val + 0.5) := by
    have hN : (N : ℝ) ≠ 0 := Nat.cast_ne_zero.2 k.pos.ne'
    field_simp
    ring
  rw [hangle, hangle, dctMatrix_apply_mul_apply]

/-- The two-dimensional transform as one double sum over the entries of the matrix (R113). -/
theorem dct2d_eq_sum {N : Nat} (M : Fin N → Fin N → ℝ) (u v : Fin N) :
    dct2d M u v = ∑ r, ∑ c, dctMatrix N u r * dctMatrix N v c * M r c := by
  simp only [dct2d, ← dct2d_factor, Finset.mul_sum]
  exact Finset.sum_congr rfl fun r _ => Finset.sum_congr rfl fun c _ => by ring

/-- The two-dimensional inverse as one double sum over the entries of the matrix (R114). -/
theorem idct2d_eq_sum {N : Nat} (F : Fin N → Fin N → ℝ) (r c : Fin N) :
    idct2d F r c = ∑ u, ∑ v, dctMatrix N u r * dctMatrix N v c * F u v := by
  simp only [idct2d, ← dct2d_factor, Finset.mul_sum]
  exact Finset.sum_congr rfl fun u _ => Finset.sum_congr rfl fun v _ => by ring

theorem dct_apply {N : Nat} (x : Fin N → ℝ) (k : Fin N) : dct x k = ∑ n, dctMatrix N k n * x n := by
  rw [dct_eq_mulVec, Matrix.mulVec, dotProduct]

theorem dct2d_eq_dct_columns {N : Nat} (M : Fin N → Fin N → ℝ) (u v : Fin N) :
    dct2d M u v = dct (fun c => dct (fun r => M r c) u) v := by
  simp only [dct2d_eq_sum, dct_apply, Finset.mul_sum]
  rw [Finset.sum_comm]
  exact Finset.sum_congr rfl fun c _ => Finset.sum_congr rfl fun r _ => by ring

theorem dct2d_eq_dct_rows {N : Nat} (M : Fin N → Fin N → ℝ) (u v : Fin N) :
    dct2d M u v = dct (fun r => dct (fun c => M r c) v) u := by
  simp only [dct2d_eq_sum, dct_apply, Finset.mul_sum, mul_assoc]

/-- Settles O51: every term of the double sum is a product of an entry for the first index and one for the second. -/
theorem dct2dIsSeparable : Obligations.Dct2dIsSeparable := by
  unfold Obligations.Dct2dIsSeparable
  exact fun N M u v => ⟨dct2d_eq_dct_columns M u v, dct2d_eq_dct_rows M u v⟩

/-- The inverse of R114 separates too: over the second index and then over the first. -/
theorem idct2d_eq_idct_rows {N : Nat} (F : Fin N → Fin N → ℝ) (r c : Fin N) :
    idct2d F r c = idct (fun u => idct (fun v => F u v) c) r := by
  simp only [idct2d_eq_sum, idct_eq_mulVec, Matrix.mulVec, dotProduct, Matrix.transpose_apply, Finset.mul_sum, mul_assoc]

/-- Settles O52: the transforms are separable, so the one-dimensional round trip undoes one index after the other. -/
theorem inverseDct2dUndoesDct2d : Obligations.InverseDct2dUndoesDct2d := by
  unfold Obligations.InverseDct2dUndoesDct2d
  intro N M
  funext r c
  have hrows (u : Fin N) : (fun v => dct2d M u v) = dct (fun c => dct (fun r => M r c) u) :=
    funext fun v => dct2d_eq_dct_columns M u v
  calc idct2d (dct2d M) r c = idct (fun u => idct (fun v => dct2d M u v) c) r := idct2d_eq_idct_rows _ r c
    _ = idct (dct fun r => M r c) r := by simp only [hrows, inverseDctUndoesDct N _]
    _ = M r c := by rw [inverseDctUndoesDct N _]

/-- A constant sequence has the frequency 0 only (R110's example). -/
theorem dct_const_of_ne_zero {N : Nat} (a : ℝ) {k : Fin N} (hk : k.val ≠ 0) : dct (fun _ => a) k = 0 := by
  have hsum : cosSum N k.val = 0 := cosSum_eq_zero (by omega) (by rw [abs_lt]; omega)
  rw [cosSum, Int.cast_natCast] at hsum
  rw [dct, ← Finset.mul_sum, hsum, mul_zero, mul_zero]

/-- A constant matrix has the frequency (0, 0) only (R113's example). -/
theorem dct2d_const_of_ne_zero {N : Nat} (a : ℝ) {u v : Fin N} (h : u.val ≠ 0 ∨ v.val ≠ 0) :
    dct2d (fun _ _ => a) u v = 0 := by
  rcases h with hu | hv
  · rw [dct2d_eq_dct_rows, dct_const_of_ne_zero _ hu]
  · rw [dct2d_eq_dct_columns, dct_const_of_ne_zero _ hv]

/-- The formula of the block is the full transform at `N = 8` (R118). -/
theorem coef_eq_dct2d (P : List Byte) (u v : Fin 8) :
    coef P u.val v.val = dct2d (fun r c : Fin 8 => (sample P r.val c.val : ℝ)) u v := by
  have hangle (k n : Fin 8) :
      (2 * n.val + 1) * k.val * Real.pi / 16 = Real.pi * k.val * (2 * n.val + 1) / (2 * (8 : ℕ)) := by
    push_cast
    ring
  have hquarter : (1 / 4 : ℝ) = 2 / (8 : ℕ) := by norm_num
  simp only [coef, dct2d, hangle, hquarter]

/-- The first coefficient has no cosine, and its factor is `c(0)^2 / 4` (R118). -/
theorem coef_zero_zero (P : List Byte) :
    coef P 0 0 = (∑ r : Fin 8, ∑ c : Fin 8, (sample P r.val c.val : ℝ)) / 8 := by
  simp only [coef, dctC_zero_mul_self, Nat.cast_zero, mul_zero, zero_mul, zero_div, Real.cos_zero, mul_one]
  ring

theorem sample_replicate (b : Byte) (r c : Fin 8) : sample (List.replicate 64 b) r.val c.val = b.toNat - 128 := by
  have hlt : 8 * r.val + c.val < 64 := by omega
  rw [sample, List.getElem?_replicate, if_pos hlt, Option.getD_some]

/-- Settles O53: the block's formula is the transform at size 8, whose values on a constant matrix are known. -/
theorem coefficientsAreTruncatedDct2d : Obligations.CoefficientsAreTruncatedDct2d := by
  unfold Obligations.CoefficientsAreTruncatedDct2d
  intro P u v
  have hcoef := coef_eq_dct2d P ⟨u.val, by omega⟩ ⟨v.val, by omega⟩
  refine ⟨hcoef, coef_zero_zero P, ?_⟩
  rintro b rfl
  simp only [sample_replicate] at hcoef
  refine ⟨?_, fun huv => hcoef.trans (dct2d_const_of_ne_zero _ ?_)⟩
  · simp only [coef_zero_zero, sample_replicate, Finset.sum_const, Finset.card_univ, Fintype.card_fin]
    push_cast
    ring
  · exact huv.imp Fin.val_ne_of_ne Fin.val_ne_of_ne

end Sys2Proof.Machine

namespace Sys2Proof.Machine

/-! ### Rounding half away from zero (43_quantizer.md R126) -/

theorem roundHaz_of_nonneg {t : ℝ} (ht : 0 ≤ t) : roundHaz t = ⌊t + 1 / 2⌋ := if_pos ht

theorem roundHaz_of_neg {t : ℝ} (ht : t < 0) : roundHaz t = -⌊-t + 1 / 2⌋ := if_neg ht.not_ge

theorem roundHaz_neg (t : ℝ) : roundHaz (-t) = -roundHaz t := by
  rcases lt_trichotomy t 0 with ht | rfl | ht
  · rw [roundHaz_of_neg ht, roundHaz_of_nonneg (neg_pos.2 ht).le, neg_neg]
  · rw [neg_zero, roundHaz_of_nonneg le_rfl, zero_add]
    norm_num
  · rw [roundHaz_of_nonneg ht.le, roundHaz_of_neg (neg_neg_iff_pos.2 ht), neg_neg]

theorem abs_roundHaz_sub_le (t : ℝ) : |(roundHaz t : ℝ) - t| ≤ 1 / 2 := by
  wlog ht : 0 ≤ t generalizing t
  · have hneg := this (-t) (by linarith)
    rwa [roundHaz_neg, Int.cast_neg, ← neg_sub', abs_neg] at hneg
  have hle := Int.floor_le (t + 1 / 2)
  have hlt := Int.lt_floor_add_one (t + 1 / 2)
  rw [roundHaz_of_nonneg ht, abs_le]
  constructor <;> linarith

theorem roundHaz_natCast_add_half (k : Nat) : roundHaz ((k : ℝ) + 1 / 2) = (k : Int) + 1 := by
  rw [roundHaz_of_nonneg (by positivity), add_assoc, add_halves, Int.floor_add_one, Int.floor_natCast]

/-- An integer is its own nearest integer. -/
theorem roundHaz_intCast (n : Int) : roundHaz (n : ℝ) = n := by
  obtain ⟨hlo, hhi⟩ := abs_le.1 (abs_roundHaz_sub_le (n : ℝ))
  have hlt : (roundHaz (n : ℝ) : ℝ) < (n + 1 : Int) := by push_cast; linarith
  have hgt : ((n - 1 : Int) : ℝ) < roundHaz (n : ℝ) := by push_cast; linarith
  have := Int.cast_lt.1 hlt
  have := Int.cast_lt.1 hgt
  omega

/-- Settles O54: below 0 the rounding is the mirror image of the floor above 0. -/
theorem roundingIsHalfAwayFromZero : Obligations.RoundingIsHalfAwayFromZero := by
  unfold Obligations.RoundingIsHalfAwayFromZero
  intro t
  refine ⟨roundHaz_of_nonneg, roundHaz_of_neg, roundHaz_neg t, abs_roundHaz_sub_le t, fun k => ?_⟩
  rw [roundHaz_neg, roundHaz_natCast_add_half]
  exact ⟨rfl, rfl⟩

/-! ### Lanes and packed rows (43_quantizer.md R128 to R130) -/

theorem lane_toNat (l : Int) : ((lane l).toNat : Int) = l % 256 := by
  rw [lane, BitVec.toNat_ofInt]
  omega

/-- A lane reads back as the level of the same residue from -128 to 127. -/
theorem laneLevel_lane_eq_iff (l : Int) : laneLevel (lane l) = l ↔ -128 ≤ l ∧ l ≤ 127 := by
  have hlane := lane_toNat l
  unfold laneLevel
  split_ifs <;> omega

/-- Column `x` of a packed row is its lane: the row's bytes, lowest first, are its lanes in order. -/
theorem laneByte_packRow (L : LevelBlock) (y x : Fin 4) : laneByte (packRow L y) x.val = lane (L y x) := by
  have hbytes : leBytes (packRow L y) = [lane (L y 0), lane (L y 1), lane (L y 2), lane (L y 3)] := leBytes_leWord ..
  simp only [leBytes, List.cons.injEq, and_true] at hbytes
  obtain ⟨h0, h1, h2, h3⟩ := hbytes
  fin_cases x
  exacts [h0, h1, h2, h3]

theorem unpackWord_packRow (L : LevelBlock) (y x : Fin 4) : unpackWord (packRow L y) x = laneLevel (lane (L y x)) :=
  congrArg laneLevel (laneByte_packRow L y x)

theorem laneByte_toNat (w : Word) (x : Nat) : (laneByte w x).toNat = w.toNat / 256 ^ x % 256 := by
  rw [laneByte, BitVec.extractLsb'_toNat, Nat.shiftRight_eq_div_pow, pow_mul]
  norm_num

theorem pack_getElem? (L : LevelBlock) (y : Fin 4) : (pack L)[y.val]? = some (packRow L y) := by
  fin_cases y <;> rfl

/-- Settles O56: a lane keeps the residue mod 256, and unpacking reads the same lane. -/
theorem narrowingWrapsAndUnpackingSignExtends : Obligations.NarrowingWrapsAndUnpackingSignExtends := by
  unfold Obligations.NarrowingWrapsAndUnpackingSignExtends
  refine ⟨fun l => ⟨lane_toNat l, laneLevel_lane_eq_iff l⟩, fun w x => laneLevel_eq_toInt _, fun L y x => ?_⟩
  rw [unpackWord_packRow, laneLevel_lane_eq_iff]

/-! ### The packed words in the output buffer (43_quantizer.md R129) -/

theorem wordBytes_pack_getElem? (L : LevelBlock) (y x : Fin 4) : (wordBytes (pack L))[4 * y.val + x.val]? = some (lane (L y x)) := by
  have hbytes : wordBytes (pack L) = index4.flatMap fun y => index4.map fun x => lane (L y x) := by
    simp [wordBytes, pack, packRow, index4]
  rw [hbytes]
  fin_cases y <;> fin_cases x <;> rfl

theorem wordBytes_pack_length (L : LevelBlock) : (wordBytes (pack L)).length = 16 := by
  simp [wordBytes, pack, packRow, index4]

/-- A 32-bit read inside `OBUF` answers the bytes stored there, whatever the size of `IBUF` (R42). -/
theorem readAt_word_obuf {s : State} {i : Nat} (hi : i < obufSize s.cfg) :
    readAt .word (obufBase + i) s = readBufferWord (obufBase + i) s := by
  have hregion : (∃ k, regionAt s.cfg (obufBase + i) = .ibuf k) ∨ ∃ k, regionAt s.cfg (obufBase + i) = .obuf k := by
    unfold regionAt ibufBase obufBase
    rw [if_neg (by omega), if_neg (by omega)]
    split_ifs
    · exact .inl ⟨_, rfl⟩
    · omega
    · exact .inr ⟨_, rfl⟩
    · omega
  rcases hregion with ⟨k, hk⟩ | ⟨k, hk⟩ <;> rw [readAt, hk] <;> rfl

theorem bufferByte_writeOutput {out : List Byte} {s : State} {k : Nat} {b : Byte} (j : Nat) (hidle : s.phase = .idle)
    (hb : out[k]? = some b) : bufferByte (writeOutput out s) (obufBase + k) j = b := by
  obtain ⟨hk, -⟩ := List.getElem?_eq_some_iff.1 hb
  have hbusy : (writeOutput out s).isBusy = false := (isBusy_eq_false _).2 hidle
  rw [bufferByte, hbusy, writeOutput_read_inside out s k hk, hb]
  rfl

theorem bufferWord_writeOutput_pack (L : LevelBlock) (y : Fin 4) {s : State} (hidle : s.phase = .idle) :
    bufferWord (writeOutput (wordBytes (pack L)) s) (obufBase + 4 * y.val) = packRow L y := by
  have hbyte (x j : Nat) (hx : x < 4) :
      bufferByte (writeOutput (wordBytes (pack L)) s) (obufBase + 4 * y.val + x) j = lane (L y ⟨x, hx⟩) := by
    rw [Nat.add_assoc]
    exact bufferByte_writeOutput j hidle (wordBytes_pack_getElem? L y ⟨x, hx⟩)
  have hfirst := hbyte 0 (writeOutput (wordBytes (pack L)) s).freeIdx (by omega)
  rw [Nat.add_zero] at hfirst
  rw [bufferWord, hfirst, hbyte 1 _ (by omega), hbyte 2 _ (by omega), hbyte 3 _ (by omega)]
  rfl

/-- Settles O57: the bytes of `OBUF` are the lanes in row order, so the word read at `4y` is row `y`. -/
theorem packedRowsReadBackAsWords : Obligations.PackedRowsReadBackAsWords := by
  unfold Obligations.PackedRowsReadBackAsWords
  intro L y x
  refine ⟨?_, pack_getElem? L y, fun s hidle hsize => ?_⟩
  · rw [← laneByte_toNat, laneByte_packRow]
  · have hoff : (BitVec.ofNat 18 (0x20000 + 4 * y.val)).toNat = obufBase + 4 * y.val := by
      rw [BitVec.toNat_ofNat, obufBase]
      omega
    have hin : 4 * y.val < obufSize (writeOutput (wordBytes (pack L)) s).cfg := by
      change 4 * y.val < 2 * s.cfg.ibufSize
      omega
    refine ⟨_, access_read_of_admitted _ ?_, ?_⟩
    · rw [hoff, admitted_word, obufBase]
      omega
    · rw [hoff, readAt_word_obuf hin]
      exact bufferWord_writeOutput_pack L y hidle

/-! ### The round trip of the quantizer (43_quantizer.md R131, R132) -/

/-- Every weight of a legal matrix is at least 1 (00_scope.md R5, 43_quantizer.md R125). -/
theorem weight_pos {p : Params} (hp : Config.wellFormed p = true) (y x : Fin 4) : 0 < weight p y x := by
  simp only [Config.wellFormed, Bool.and_eq_true, List.all_eq_true, bne_iff_ne] at hp
  obtain ⟨-, hweights⟩ := hp
  have hne := hweights (p.qmatrix[4 * y.val + x.val]) (by simp)
  rw [weight, Nat.pos_iff_ne_zero]
  exact fun h => hne (BitVec.eq_of_toNat_eq h)

/-- Whole multiples of the weights are quantized without a rounding error (R127). -/
theorem quantize_intCast_mul_weight {p : Params} (hp : Config.wellFormed p = true) (l : LevelBlock) :
    quantize p (fun y x => (l y x : ℝ) * (weight p y x : ℝ)) = l := by
  funext y x
  have hw : (weight p y x : ℝ) ≠ 0 := Nat.cast_ne_zero.2 (weight_pos hp y x).ne'
  rw [quantize, mul_div_cancel_right₀ _ hw, roundHaz_intCast]

/-- Settles O58: whole multiples lose nothing to rounding, and levels of the byte range lose nothing to narrowing. -/
theorem quantizerRoundTrip : Obligations.QuantizerRoundTrip := by
  unfold Obligations.QuantizerRoundTrip
  intro p l hp hrange F
  have hquantize : quantize p F = l := quantize_intCast_mul_weight hp l
  have hunpack : (fun y x => unpackWord (packRow l y) x) = l := by
    funext y x
    rw [unpackWord_packRow, laneLevel_lane_eq_iff]
    exact hrange y x
  rw [hquantize, hunpack]
  refine ⟨rfl, rfl, ?_⟩
  funext y x
  simp [dequantize, F]

/-! ### The decomposition into cosines is exact (42_dct.md R118, R120, R121) -/

/-- `cos(m pi / 16)` (R120). -/
noncomputable def kappa (m : Int) : ℝ := Real.cos (m * (Real.pi / 16))

@[simp] theorem kappa_zero : kappa 0 = 1 := by simp [kappa]

theorem kappa_four : kappa 4 = 1 / √2 := by
  rw [kappa, show ((4 : Int) : ℝ) * (Real.pi / 16) = Real.pi / 4 by push_cast; ring, Real.cos_pi_div_four]
  field_simp
  norm_num

@[simp] theorem kappa_eight : kappa 8 = 0 := by
  rw [kappa, show ((8 : Int) : ℝ) * (Real.pi / 16) = Real.pi / 2 by push_cast; ring, Real.cos_pi_div_two]

theorem kappa_pos {m : Int} (h0 : 0 ≤ m) (h8 : m < 8) : 0 < kappa m := by
  have h0' : (0 : ℝ) ≤ m := by exact_mod_cast h0
  have h8' : (m : ℝ) < 8 := by exact_mod_cast h8
  refine Real.cos_pos_of_mem_Ioo ⟨?_, ?_⟩ <;> nlinarith [Real.pi_pos]

/-- The product rule of R121. -/
theorem two_mul_kappa_mul_kappa (a b : Int) : 2 * kappa a * kappa b = kappa (a + b) + kappa (a - b) := by
  rw [kappa, kappa, kappa, kappa, Real.two_mul_cos_mul_cos, add_comm, ← add_mul, ← sub_mul]
  push_cast
  rfl

theorem kappa_emod (m : Int) : kappa (m % 32) = kappa m := by
  have hangle : (m : ℝ) * (Real.pi / 16) = (m % 32 : Int) * (Real.pi / 16) + (m / 32 : Int) * (2 * Real.pi) := by
    have hm : (m : ℝ) = (m % 32 : Int) + 32 * (m / 32 : Int) := by exact_mod_cast (Int.emod_add_mul_ediv m 32).symm
    rw [hm]
    ring
  rw [kappa, kappa, hangle, Real.cos_add_int_mul_two_pi]

theorem kappa_thirtytwo_sub (m : Int) : kappa (32 - m) = kappa m := by
  rw [kappa, show ((32 - m : Int) : ℝ) * (Real.pi / 16) = 2 * Real.pi - m * (Real.pi / 16) by push_cast; ring,
    Real.cos_two_pi_sub, kappa]

theorem kappa_sixteen_sub (m : Int) : kappa (16 - m) = -kappa m := by
  rw [kappa, show ((16 - m : Int) : ℝ) * (Real.pi / 16) = Real.pi - m * (Real.pi / 16) by push_cast; ring,
    Real.cos_pi_sub, kappa]

/-- The real number `A_0 kappa_0 + ... + A_7 kappa_7`. -/
noncomputable def CosSum.toReal (A : CosSum) : ℝ :=
  A.a0 + A.a1 * kappa 1 + A.a2 * kappa 2 + A.a3 * kappa 3 + A.a4 * kappa 4 + A.a5 * kappa 5 + A.a6 * kappa 6 + A.a7 * kappa 7

theorem addAt_toReal (A : CosSum) {m : Int} (w : Int) (h0 : 0 ≤ m) (h8 : m ≤ 8) :
    (addAt A m w).toReal = A.toReal + w * kappa m := by
  interval_cases m <;> simp [addAt, CosSum.toReal] <;> ring

/-- The reductions of the index are the symmetries of the cosine (R120). -/
theorem addcos_toReal (A : CosSum) (m w : Int) : (addcos A m w).toReal = A.toReal + w * kappa m := by
  have hfold : ∃ k, k = (if 16 < m % 32 then 32 - m % 32 else m % 32) ∧ 0 ≤ k ∧ k ≤ 16 ∧ kappa k = kappa m := by
    refine ⟨_, rfl, ?_⟩
    split_ifs
    · exact ⟨by omega, by omega, by rw [kappa_thirtytwo_sub, kappa_emod]⟩
    · exact ⟨by omega, by omega, kappa_emod m⟩
  obtain ⟨k, hk, h0, h16, hkappa⟩ := hfold
  rw [addcos, ← hk, ← hkappa]
  split_ifs
  · rw [addAt_toReal _ _ (by omega) (by omega), kappa_sixteen_sub]
    push_cast
    ring
  · exact addAt_toReal _ _ h0 (by omega)

/-- Eight times what one sample contributes to `coef(P, u, v)` (R118). -/
noncomputable def coefTerm (u v r c : Nat) (s : Int) : ℝ :=
  2 * dctC u * dctC v * (s * kappa ((2 * r + 1) * u) * kappa ((2 * c + 1) * v))

/-- The frequency 0 has the factor `kappa_4` and no cosine; every other factor is 1. -/
theorem dctC_zero_eq_kappa : dctC 0 = kappa 4 := by rw [dctC_zero, kappa_four]

theorem decompStep_toReal (u v : Nat) (A : CosSum) (r c : Nat) (s : Int) :
    (decompStep u v A r c s).toReal = A.toReal + coefTerm u v r c s := by
  unfold decompStep coefTerm
  split_ifs with h hu hv
  · obtain ⟨rfl, rfl⟩ := h
    have hhalf := dctC_zero_mul_self
    rw [addAt_toReal A s le_rfl (by decide)]
    simp only [Nat.cast_zero, mul_zero, kappa_zero, mul_one]
    linear_combination -2 * (s : ℝ) * hhalf
  · subst hu
    have hprod := two_mul_kappa_mul_kappa ((2 * c + 1) * v) 4
    rw [dctC_of_ne_zero (show v ≠ 0 by tauto), dctC_zero_eq_kappa, addcos_toReal, addcos_toReal]
    simp only [Nat.cast_zero, mul_zero, kappa_zero, mul_one]
    linear_combination -(s : ℝ) * hprod
  · subst hv
    have hprod := two_mul_kappa_mul_kappa ((2 * r + 1) * u) 4
    rw [dctC_of_ne_zero hu, dctC_zero_eq_kappa, addcos_toReal, addcos_toReal]
    simp only [Nat.cast_zero, mul_zero, kappa_zero, mul_one]
    linear_combination -(s : ℝ) * hprod
  · have hprod := two_mul_kappa_mul_kappa ((2 * r + 1) * u) ((2 * c + 1) * v)
    rw [dctC_of_ne_zero hu, dctC_of_ne_zero hv, addcos_toReal, addcos_toReal]
    linear_combination -(s : ℝ) * hprod

theorem foldl_decompStep_toReal (P : List Byte) (u v : Nat) (ks : List Nat) : ∀ A : CosSum,
    (ks.foldl (fun A k => decompStep u v A (k / 8) (k % 8) (sample P (k / 8) (k % 8))) A).toReal =
      A.toReal + (ks.map fun k => coefTerm u v (k / 8) (k % 8) (sample P (k / 8) (k % 8))).sum := by
  induction ks with
  | nil => simp
  | cons k ks ih =>
    intro A
    rw [List.foldl_cons, ih, decompStep_toReal, List.map_cons, List.sum_cons, add_assoc]

/-- The samples in row-major order are those of the eight rows (R117). -/
theorem sum_range_sixtyFour (f : Nat → Nat → ℝ) :
    ((List.range 64).map fun k => f (k / 8) (k % 8)).sum = ∑ r : Fin 8, ∑ c : Fin 8, f r.val c.val := by
  rw [← List.sum_toFinset _ List.nodup_range, List.toFinset_range, Finset.sum_range,
    ← (finProdFinEquiv (m := 8) (n := 8)).sum_comp, Fintype.sum_prod_type]
  refine Finset.sum_congr rfl fun r _ => Finset.sum_congr rfl fun c _ => ?_
  have hdiv : (c.val + 8 * r.val) / 8 = r.val := by omega
  have hmod : (c.val + 8 * r.val) % 8 = c.val := by omega
  rw [finProdFinEquiv_apply_val, hdiv, hmod]

/-- R121's decomposition is exact. -/
theorem decomp_toReal (P : List Byte) (u v : Nat) : (decomp P u v).toReal = 8 * coef P u v := by
  have hzero : cosZero.toReal = 0 := by simp [cosZero, CosSum.toReal]
  rw [decomp, foldl_decompStep_toReal, hzero, zero_add,
    sum_range_sixtyFour fun r c => coefTerm u v r c (sample P r c), coef]
  simp only [coefTerm, Finset.mul_sum]
  refine Finset.sum_congr rfl fun r _ => Finset.sum_congr rfl fun c _ => ?_
  have hangle (n k : Nat) : kappa ((2 * n + 1) * k) = Real.cos ((2 * n + 1) * k * Real.pi / 16) := by
    rw [kappa]
    push_cast
    ring_nf
  rw [hangle, hangle]
  ring

/-! ### The tower of square roots (42_dct.md R119, log entry 14) -/

/-- The real number of a `Root2`: `2 kappa_4` is `sqrt 2`. -/
noncomputable def Root2.toReal (p : Root2) : ℝ := p.re + p.im * (2 * kappa 4)

/-- The real number of a `Root4`: `2 kappa_2` is `sqrt (2 + sqrt 2)`. -/
noncomputable def Root4.toReal (p : Root4) : ℝ := p.re.toReal + p.im.toReal * (2 * kappa 2)

/-- The real number of a `Root8`: `2 kappa_1` is `sqrt (2 + sqrt (2 + sqrt 2))`. -/
noncomputable def Root8.toReal (p : Root8) : ℝ := p.re.toReal + p.im.toReal * (2 * kappa 1)

/-- Each root squared is 2 plus the root below it: the double-angle rule. -/
theorem two_mul_kappa_sq (m : Int) : (2 * kappa m) * (2 * kappa m) = 2 + 2 * kappa (m + m) := by
  have hprod := two_mul_kappa_mul_kappa m m
  rw [sub_self, kappa_zero] at hprod
  linear_combination 2 * hprod

theorem root2_sq : (2 * kappa 4) * (2 * kappa 4) = 2 := by simpa using two_mul_kappa_sq 4

theorem root4_sq : (2 * kappa 2) * (2 * kappa 2) = root2Next.toReal := by
  simpa [root2Next, Root2.toReal] using two_mul_kappa_sq 2

theorem root8_sq : (2 * kappa 1) * (2 * kappa 1) = root4Next.toReal := by
  simpa [root4Next, Root4.toReal, Root2.toReal] using two_mul_kappa_sq 1

@[simp] theorem root2Add_toReal (p q : Root2) : (root2Add p q).toReal = p.toReal + q.toReal := by
  simp only [Root2.toReal, root2Add]
  push_cast
  ring

@[simp] theorem root2Neg_toReal (p : Root2) : (root2Neg p).toReal = -p.toReal := by
  simp only [Root2.toReal, root2Neg]
  push_cast
  ring

@[simp] theorem root2Mul_toReal (p q : Root2) : (root2Mul p q).toReal = p.toReal * q.toReal := by
  simp only [Root2.toReal, root2Mul]
  push_cast
  linear_combination -(p.im * q.im : ℝ) * root2_sq

@[simp] theorem root4Add_toReal (p q : Root4) : (root4Add p q).toReal = p.toReal + q.toReal := by
  simp only [Root4.toReal, root4Add, root2Add_toReal]
  ring

@[simp] theorem root4Neg_toReal (p : Root4) : (root4Neg p).toReal = -p.toReal := by
  simp only [Root4.toReal, root4Neg, root2Neg_toReal]
  ring

@[simp] theorem root4Mul_toReal (p q : Root4) : (root4Mul p q).toReal = p.toReal * q.toReal := by
  simp only [Root4.toReal, root4Mul, root2Add_toReal, root2Mul_toReal]
  linear_combination -(p.im.toReal * q.im.toReal) * root4_sq

@[simp] theorem root8Neg_toReal (p : Root8) : (root8Neg p).toReal = -p.toReal := by
  simp only [Root8.toReal, root8Neg, root4Neg_toReal]
  ring

@[simp] theorem root8SubInt_toReal (p : Root8) (n : Int) : (root8SubInt p n).toReal = p.toReal - n := by
  simp only [Root8.toReal, Root4.toReal, Root2.toReal, root8SubInt]
  push_cast
  ring

/-- The seven cosines in the tower, each from the product rule. -/
theorem cosSumTower_toReal (A : CosSum) : (cosSumTower A).toReal = 2 * A.toReal := by
  have h3 : 2 * kappa 2 * kappa 1 = kappa 3 + kappa 1 := two_mul_kappa_mul_kappa 2 1
  have h5 : 2 * kappa 4 * kappa 1 = kappa 5 + kappa 3 := two_mul_kappa_mul_kappa 4 1
  have h6 : 2 * kappa 4 * kappa 2 = kappa 6 + kappa 2 := two_mul_kappa_mul_kappa 4 2
  have h7 : 2 * kappa 6 * kappa 1 = kappa 7 + kappa 5 := two_mul_kappa_mul_kappa 6 1
  simp only [Root8.toReal, Root4.toReal, Root2.toReal, cosSumTower, CosSum.toReal]
  push_cast
  linear_combination 2 * (A.a3 - A.a5 + A.a7 : ℝ) * h3 + 2 * (A.a5 - A.a7 : ℝ) * h5 + 2 * (A.a6 : ℝ) * h6 + 2 * (A.a7 : ℝ) * h7 +
    4 * (A.a7 : ℝ) * kappa 1 * h6

theorem coef16_toReal (P : List Byte) (u v : Nat) : (coef16 P u v).toReal = 16 * coef P u v := by
  rw [coef16, cosSumTower_toReal, decomp_toReal]
  ring

/-! ### Signs in the tower -/

/-- Where `p` and `q` have opposite signs, the sign of `p^2 - q^2 r^2` decides: that number is `(p + q r)(p - q r)`, and `p - q r` has
the sign of `p`. -/
theorem signOfParts_eq_sign {p q r : ℝ} (hr : 0 < r) :
    signOfParts (SignType.sign p) (SignType.sign q) (SignType.sign (p * p - r * r * (q * q))) =
      SignType.sign (p + q * r) := by
  have hprod : p * p - r * r * (q * q) = (p + q * r) * (p - q * r) := by ring
  rw [hprod, sign_mul]
  rcases lt_trichotomy q 0 with hq | rfl | hq
  · have hqr : q * r < 0 := mul_neg_of_neg_of_pos hq hr
    rcases lt_trichotomy p 0 with hp | rfl | hp
    · simp [signOfParts, sign_neg hp, sign_neg hq, sign_neg (add_neg hp hqr)]
    · simp [signOfParts, sign_neg hq, sign_neg hqr]
    · have hdiff : 0 < p - q * r := by linarith
      simp [signOfParts, sign_pos hp, sign_neg hq, sign_pos hdiff]
  · simp [signOfParts]
  · have hqr : 0 < q * r := mul_pos hq hr
    rcases lt_trichotomy p 0 with hp | rfl | hp
    · have hdiff : p - q * r < 0 := by linarith
      simp [signOfParts, sign_neg hp, sign_pos hq, sign_neg hdiff]
    · simp [signOfParts, sign_pos hq, sign_pos hqr]
    · simp [signOfParts, sign_pos hp, sign_pos hq, sign_pos (add_pos hp hqr)]

theorem int_sign_eq_sign_cast (n : Int) : n.sign = SignType.sign (n : ℝ) := by
  rw [Int.sign_eq_sign, sign_intCast]

theorem root2Sign_eq_sign (p : Root2) : root2Sign p = SignType.sign p.toReal := by
  have hroot : (0 : ℝ) < 2 * kappa 4 := mul_pos two_pos (kappa_pos (by decide) (by decide))
  rw [Root2.toReal, ← signOfParts_eq_sign hroot, root2_sq, root2Sign]
  simp only [int_sign_eq_sign_cast]
  push_cast
  rfl

theorem root4Sign_eq_sign (p : Root4) : root4Sign p = SignType.sign p.toReal := by
  have hroot : (0 : ℝ) < 2 * kappa 2 := mul_pos two_pos (kappa_pos (by decide) (by decide))
  rw [Root4.toReal, ← signOfParts_eq_sign hroot, root4_sq, root4Sign]
  simp [root2Sign_eq_sign, sub_eq_add_neg]

theorem root8Sign_eq_sign (p : Root8) : root8Sign p = SignType.sign p.toReal := by
  have hroot : (0 : ℝ) < 2 * kappa 1 := mul_pos two_pos (kappa_pos (by decide) (by decide))
  rw [Root8.toReal, ← signOfParts_eq_sign hroot, root8_sq, root8Sign]
  simp [root4Sign_eq_sign, sub_eq_add_neg]

theorem root8Sign_neg_iff (p : Root8) : root8Sign p < 0 ↔ p.toReal < 0 := by
  have hcast : ∀ a : SignType, (a : Int) < 0 ↔ a = -1 := by decide
  rw [root8Sign_eq_sign, hcast, sign_eq_neg_one_iff]

/-! ### The search finds the rounded magnitude (43_quantizer.md R126, R127) -/

/-- The test of one bit compares `t + 1/2` with `m`, for `t = coef / Q`. -/
theorem reachesLevel_iff {c16 : Root8} {t : ℝ} {Q m : Nat} (hQ : 0 < Q) (ht : c16.toReal = 16 * t * Q) (hm : 1 ≤ m) :
    reachesLevel c16 Q m = true ↔ m ≤ ⌊t + 1 / 2⌋₊ := by
  have hQ' : (0 : ℝ) < Q := Nat.cast_pos.2 hQ
  have hdiff : (root8SubInt c16 (8 * Q * (2 * m - 1))).toReal = 16 * Q * (t + 1 / 2 - m) := by
    rw [root8SubInt_toReal, ht]
    push_cast
    ring
  rw [reachesLevel, decide_eq_true_eq, ← not_lt, root8Sign_neg_iff, not_lt, hdiff, mul_nonneg_iff_of_pos_left (by positivity),
    sub_nonneg, Nat.le_floor_iff' (by omega)]

/-- The search finds the greatest level that is reached, when it is in range. -/
theorem searchLevel_eq {c16 : Root8} {Q M : Nat} (h : ∀ m, 1 ≤ m → (reachesLevel c16 Q m = true ↔ m ≤ M)) (b : Nat) :
    ∀ n, n ≤ M → M < n + 2 ^ b → searchLevel c16 Q b n = M := by
  induction b with
  | zero => intro n hlo hhi; rw [searchLevel]; omega
  | succ b ih =>
    intro n hlo hhi
    have hpos : 0 < 2 ^ b := by positivity
    rw [pow_succ] at hhi
    simp only [searchLevel, h (n + 2 ^ b) (by omega)]
    split_ifs with hreach
    · exact ih _ hreach (by omega)
    · exact ih _ hlo (by omega)

theorem searchLevel_eq_roundHaz {c16 : Root8} {t : ℝ} {Q : Nat} (hQ : 0 < Q) (ht : c16.toReal = 16 * t * Q) (h0 : 0 ≤ t)
    (hmax : t ≤ 1024) : (searchLevel c16 Q 12 0 : Int) = roundHaz t := by
  have hfloor : ⌊t + 1 / 2⌋₊ < 0 + 2 ^ 12 := by
    rw [Nat.floor_lt (by positivity)]
    norm_num
    linarith
  rw [searchLevel_eq (fun m hm => reachesLevel_iff hQ ht hm) 12 0 (Nat.zero_le _) hfloor,
    Int.natCast_floor_eq_floor (by positivity), roundHaz_of_nonneg h0]

theorem levelOf_eq_roundHaz {c16 : Root8} {t : ℝ} {Q : Nat} (hQ : 0 < Q) (ht : c16.toReal = 16 * t * Q) (hmax : |t| ≤ 1024) :
    levelOf c16 Q = roundHaz t := by
  obtain ⟨hlo, hhi⟩ := abs_le.1 hmax
  have hQ' : (0 : ℝ) < Q := Nat.cast_pos.2 hQ
  have hsign : c16.toReal < 0 ↔ t < 0 := by
    rw [ht, mul_right_comm, ← not_le, mul_nonneg_iff_of_pos_left (by positivity), not_le]
  rw [levelOf]
  simp only [root8Sign_neg_iff, hsign]
  split_ifs with hneg
  · have hneg16 : (root8Neg c16).toReal = 16 * -t * Q := by
      rw [root8Neg_toReal, ht]
      ring
    rw [searchLevel_eq_roundHaz hQ hneg16 (by linarith) (by linarith), roundHaz_neg, neg_neg]
  · exact searchLevel_eq_roundHaz hQ ht (not_lt.1 hneg) hhi

/-! ### The range of a coefficient (42_dct.md R122) -/

/-- The rows of the matrix have length 1 (R112). -/
theorem sum_dctMatrix_sq {N : Nat} (k : Fin N) : ∑ n, dctMatrix N k n ^ 2 = 1 := by
  have h := congrFun (congrFun (dctMatrix_mul_transpose N) k) k
  simpa only [Matrix.mul_apply, Matrix.transpose_apply, Matrix.one_apply_eq, ← sq] using h

/-- No coefficient is larger than the matrix it comes from: a product of two rows of length 1 has length 1. -/
theorem dct2d_sq_le {N : Nat} (M : Fin N → Fin N → ℝ) (u v : Fin N) : dct2d M u v ^ 2 ≤ ∑ r, ∑ c, M r c ^ 2 := by
  have hunit : ∑ rc : Fin N × Fin N, (dctMatrix N u rc.1 * dctMatrix N v rc.2) ^ 2 = 1 := by
    simp only [mul_pow, Fintype.sum_prod_type, ← Finset.mul_sum, sum_dctMatrix_sq, mul_one]
  have hcauchy := Finset.sum_mul_sq_le_sq_mul_sq Finset.univ
    (fun rc : Fin N × Fin N => dctMatrix N u rc.1 * dctMatrix N v rc.2) (fun rc => M rc.1 rc.2)
  rw [hunit, one_mul] at hcauchy
  simpa only [dct2d_eq_sum, Fintype.sum_prod_type] using hcauchy

theorem sample_sq_le (P : List Byte) (r c : Nat) : (sample P r c : ℝ) ^ 2 ≤ 128 ^ 2 := by
  have hlt := ((P[8 * r + c]?).getD 0).isLt
  have habs : |sample P r c| ≤ 128 := by
    rw [sample, abs_le]
    omega
  rw [← sq_abs]
  exact pow_le_pow_left₀ (abs_nonneg _) (by exact_mod_cast habs) 2

theorem abs_coef_le (P : List Byte) (u v : Fin 8) : |coef P u.val v.val| ≤ 1024 := by
  have hsum : ∑ r : Fin 8, ∑ c : Fin 8, (sample P r.val c.val : ℝ) ^ 2 ≤ ∑ _r : Fin 8, ∑ _c : Fin 8, (128 : ℝ) ^ 2 :=
    Finset.sum_le_sum fun r _ => Finset.sum_le_sum fun c _ => sample_sq_le P r c
  refine abs_le_of_sq_le_sq ?_ (by norm_num)
  rw [coef_eq_dct2d]
  refine (dct2d_sq_le _ u v).trans (hsum.trans ?_)
  norm_num

/-! ### Levels (43_quantizer.md R127, R133) -/

/-- The machine's level is the rounded real quotient (R119, R127). -/
theorem level_eq_roundHaz {p : Params} (hp : Config.wellFormed p = true) (P : List Byte) (y x : Fin 4) :
    level p P y x = roundHaz (coef P y.val x.val / (weight p y x : ℝ)) := by
  have hpos := weight_pos hp y x
  have hone : (1 : ℝ) ≤ weight p y x := Nat.one_le_cast.2 hpos
  have hcoef : |coef P y.val x.val| ≤ 1024 := abs_coef_le P ⟨y.val, by omega⟩ ⟨x.val, by omega⟩
  refine levelOf_eq_roundHaz hpos ?_ ?_
  · rw [coef16_toReal, mul_assoc, div_mul_cancel₀ _ (by positivity)]
  · rw [abs_div, Nat.abs_cast]
    exact (div_le_self (abs_nonneg _) hone).trans hcoef

/-- Settles O55: the tower holds the exact coefficient, its signs are exact, and the search covers every magnitude R122 allows. -/
theorem levelIsTheRoundedRealQuotient : Obligations.LevelIsTheRoundedRealQuotient := by
  unfold Obligations.LevelIsTheRoundedRealQuotient
  intro p P hp y x
  exact ⟨level_eq_roundHaz hp P y x, level_eq_roundHaz hp P y x⟩

theorem ten_le_default_weight : ∀ y x : Fin 4, 10 ≤ weight Config.defaults y x := by decide

/-- Settles O59: a coefficient of at most 1024 over a weight of at least 10 is at most 102.4, and rounding adds at most 1/2. -/
theorem defaultMatrixNeverWraps : Obligations.DefaultMatrixNeverWraps := by
  unfold Obligations.DefaultMatrixNeverWraps
  intro P y x
  have hweight : (10 : ℝ) ≤ weight Config.defaults y x := Nat.ofNat_le_cast.2 (ten_le_default_weight y x)
  have hcoef : |coef P y.val x.val| ≤ 1024 := abs_coef_le P ⟨y.val, by omega⟩ ⟨x.val, by omega⟩
  have hquot : |coef P y.val x.val / weight Config.defaults y x| ≤ 1024 / 10 := by
    rw [abs_div, Nat.abs_cast]
    exact div_le_div₀ (by norm_num) hcoef (by norm_num) hweight
  have hround := abs_roundHaz_sub_le (coef P y.val x.val / weight Config.defaults y x)
  rw [← level_eq_roundHaz (by decide) P y x] at hround
  rw [abs_le] at hquot hround
  have hlo : ((-128 : Int) : ℝ) ≤ level Config.defaults P y x := by push_cast; linarith
  have hhi : (level Config.defaults P y x : ℝ) ≤ (127 : Int) := by push_cast; linarith
  exact ⟨Int.cast_le.1 hlo, Int.cast_le.1 hhi⟩

end Sys2Proof.Machine

namespace Sys2Proof.Machine

/-! ### Launch and the command rows (44_commands.md R140 to R146) -/

theorem launch_of_busy (w : Word) {s : State} (hb : s.phase = .busy) : launch w s = s :=
  if_pos ((isBusy_eq_true s).2 hb)

theorem launch_of_idle {w : Word} {s : State} (hidle : s.phase = .idle) (h0 : w ≠ 0) (h3 : w ≠ 3) :
    launch w s = latch w (clearReport s) := by
  rw [launch, (isBusy_eq_false s).2 hidle, if_neg Bool.false_ne_true, if_neg h0, if_neg h3]

theorem launch_zero (s : State) : launch 0 s = s := by simp [launch]

theorem launch_clear_of_idle {s : State} (hidle : s.phase = .idle) : launch 3 s = clearReport s := by
  simp [launch, (isBusy_eq_false s).2 hidle]

theorem runCommand_of_idle (op : Word) {s : State} (hidle : s.phase = .idle) : runCommand op s = launch op s := by
  simp [runCommand, (isBusy_eq_false s).2 hidle]

/-- A command word met by an idle block is launched as a write to `CMD` launches it. -/
theorem exec_decodeCmd_of_idle (w : Word) {s : State} (hidle : s.phase = .idle) :
    exec (decodeCmd w) s = .next (launch w s) := by
  by_cases h0 : w = 0
  · subst h0; rfl
  by_cases h3 : w = 3
  · subst h3; rfl
  rw [exec_decodeCmd s h0 h3, runCommand_of_idle w hidle]

theorem statusWord_of_busy {s : State} (hb : s.phase = .busy) (hdone : s.done = false) (herr : s.err = false) :
    statusWord s = 1 := by
  simp [statusWord, (isBusy_eq_true s).2 hb, hdone, herr]

theorem statusWord_of_done {s : State} (hidle : s.phase = .idle) (hdone : s.done = true) :
    statusWord s = if s.err then 6 else 2 := by
  cases herr : s.err <;> simp [statusWord, (isBusy_eq_false s).2 hidle, hdone, herr]

/-- `STATUS` reads 1 right after a launch. -/
theorem statusWord_latch_clearReport (w : Word) (s : State) : statusWord (latch w (clearReport s)) = 1 :=
  statusWord_of_busy rfl rfl rfl

/-- A launched command with a `BUSY` phase is run twice: the launch, then the completion step. -/
theorem runCommand_launch_complete {op : Word} {s : State} (hidle : s.phase = .idle) (h0 : op ≠ 0) (h3 : op ≠ 3) :
    runCommand op s = latch op (clearReport s) ∧
      runCommand op (latch op (clearReport s)) = complete (latch op (clearReport s)) :=
  ⟨(runCommand_of_idle op hidle).trans (launch_of_idle hidle h0 h3), runCommand_of_busy rfl rfl⟩

/-- What a command leaves that was launched in `s` and whose work is to write `out`. -/
def commandResult (op : Word) (out : List Byte) (s : State) : State := finish (writeOutput out (latch op (clearReport s)))

theorem complete_eq_commandResult {op : Word} {out : List Byte} {s : State}
    (hchecks : checks s.cfg op s.bpp s.xform s.len = none)
    (hwork : commandWork (latch op (clearReport s)) = writeOutput out (latch op (clearReport s))) :
    complete (latch op (clearReport s)) = commandResult op out s := by
  rw [complete_of_checks_none hchecks, hwork, commandResult]

theorem statusWord_commandResult (op : Word) (out : List Byte) (s : State) : statusWord (commandResult op out s) = 2 :=
  statusWord_of_done rfl rfl

theorem errcodeWord_commandResult (op : Word) (out : List Byte) (s : State) : errcodeWord (commandResult op out s) = 0 := rfl

theorem commandResult_outlen (op : Word) (out : List Byte) (s : State) :
    (commandResult op out s).outlen = BitVec.ofNat 32 out.length := rfl

theorem commandResult_read_inside (op : Word) (out : List Byte) (s : State) (k : Nat) (h : k < out.length) :
    (commandResult op out s).mem.read (obufBase + k) = out[k]? :=
  writeOutput_read_inside out (latch op (clearReport s)) k h

theorem commandResult_read_outside (op : Word) (out : List Byte) (s : State) (a : Nat) (h : ¬ inOutput out.length a) :
    (commandResult op out s).mem.read a = s.mem.read a :=
  writeOutput_read_outside out (latch op (clearReport s)) a h

/-- The frame of a command that has written its output. -/
theorem commandResult_frame (op : Word) (out : List Byte) {s : State} (hidle : s.phase = .idle) :
    commandResult op out s = { s with
      curOp := op, done := true, err := false, errcode := 0, outlen := (commandResult op out s).outlen,
      mem := (commandResult op out s).mem, window := (commandResult op out s).window,
      freeIdx := (commandResult op out s).freeIdx } := by
  rw [commandResult, finish, ← hidle]
  rfl

/-- The checks that can fail for `RLE`, in the order of R164. -/
theorem checks_rle (p : Params) (bpp xform len : Word) :
    checks p 1 bpp xform len =
      if ¬(bpp = 1 ∨ bpp = 4) then some .unsupportedConfiguration
      else if 4 ≤ xform.toNat then some .unsupportedConfiguration
      else if p.ibufSize < len.toNat then some .outOfRange
      else if len = 0 ∧ p.emptyInputFaults = true then some .emptyInput
      else none := by
  simp [checks]

/-- A legal `RLE` configuration passes every check (60_exceptions.md R164). -/
theorem checks_rle_of_legal {s : State} (h : rleLegal s) : checks s.cfg 1 s.bpp s.xform s.len = none := by
  obtain ⟨hbpp, hxform, hlen, hempty⟩ := h
  rw [checks_rle, if_neg (not_not.2 hbpp), if_neg hxform.not_ge, if_neg hlen.not_gt, if_neg]
  exact fun ⟨h0, hfaults⟩ => by simp [hempty h0] at hfaults

/-- No configuration makes a reserved command word pass (60_exceptions.md R162). -/
theorem checks_of_four_le {op : Word} (h : 4 ≤ op.toNat) (p : Params) (bpp xform len : Word) :
    checks p op bpp xform len = some .unsupportedConfiguration := if_pos h

theorem step_of_due {s : State} (hcfg : Config.wellFormed s.cfg = true) (hdue : completionDue s = true) :
    step s = .next (complete s) := by
  have hfetch : fetch s = (.complete, s) := if_pos hdue
  rw [step_eq_perform s hcfg, hfetch]
  rfl

/-! ### The statements about the commands (44_commands.md) -/

/-- Settles O11: the legal configuration passes the checks, and the work is the encoding of the written input. -/
theorem rleCommandEncodesItsInput : Obligations.RleCommandEncodesItsInput := by
  unfold Obligations.RleCommandEncodesItsInput
  intro s bytes hinv hidle hlegal hbytes hmem out
  obtain ⟨hlaunch, hrun⟩ := runCommand_launch_complete hidle (show (1 : Word) ≠ 0 by decide) (by decide)
  have hin : rleInput (latch 1 (clearReport s)) = some bytes :=
    (memory_readBytes_eq_some _ _ _ _).2 ⟨hbytes, fun k hk => hmem k (hbytes.symm ▸ hk)⟩
  have hdone := complete_eq_commandResult (checks_rle_of_legal hlegal) (commandWork_rle rfl hin)
  have hfit : out.length < 2 ^ 32 := by
    have hout : out.length ≤ 2 * bytes.length := rleEncode_length_le ..
    obtain ⟨-, -, hlen, -⟩ := hlegal
    obtain ⟨-, -, hsize⟩ := ibufSize_of_wellFormed hinv.params
    omega
  exact ⟨_, commandResult 1 out s, congrArg Host.Outcome.next hlaunch, statusWord_latch_clearReport 1 s,
    congrArg Host.Outcome.next (hrun.trans hdone), statusWord_commandResult 1 out s, errcodeWord_commandResult 1 out s,
    Nat.mod_eq_of_lt hfit, commandResult_read_inside 1 out s, commandResult_read_outside 1 out s,
    commandResult_frame 1 out hidle⟩

/-- Settles O12: depth 8 passes the checks, and the work is the sixteen lanes of the block's levels. -/
theorem dctqCommandQuantizesItsBlock : Obligations.DctqCommandQuantizesItsBlock := by
  unfold Obligations.DctqCommandQuantizesItsBlock
  intro s bytes _ hidle hbpp hbytes hmem
  obtain ⟨hlaunch, hrun⟩ := runCommand_launch_complete hidle (show (2 : Word) ≠ 0 by decide) (by decide)
  have hin : dctqInput (latch 2 (clearReport s)) = some bytes := (memory_readBytes_eq_some _ _ _ _).2 ⟨hbytes, hmem⟩
  have hchecks : checks s.cfg 2 s.bpp s.xform s.len = none := by
    rw [checks_dctq, if_neg (not_not.2 hbpp)]
  have hdone := complete_eq_commandResult hchecks (commandWork_dctq rfl hin)
  have hsize := wordBytes_dctqBlock_length s.cfg bytes
  refine ⟨_, commandResult 2 (wordBytes (dctqBlock s.cfg bytes)) s, congrArg Host.Outcome.next hlaunch,
    statusWord_latch_clearReport 2 s, congrArg Host.Outcome.next (hrun.trans hdone), statusWord_commandResult 2 _ s,
    errcodeWord_commandResult 2 _ s, ?_, fun y x => ?_, fun a ha => ?_, commandResult_frame 2 _ hidle⟩
  · rw [commandResult_outlen, hsize]
    rfl
  · rw [commandResult_read_inside _ _ _ _ (by omega)]
    exact wordBytes_pack_getElem? (level s.cfg bytes) y x
  · exact commandResult_read_outside _ _ _ _ (hsize.symm ▸ ha)

/-- Settles O14: the first check of R164 fails for every reserved word, whatever the registers hold. -/
theorem reservedCommandEndsInError : Obligations.ReservedCommandEndsInError := by
  unfold Obligations.ReservedCommandEndsInError
  intro s op _ hidle hop
  obtain ⟨h0, -, -, h3⟩ := word_ne_of_four_le hop
  obtain ⟨hlaunch, hrun⟩ := runCommand_launch_complete hidle h0 h3
  have hdone := complete_of_checks_some (s := latch op (clearReport s)) (checks_of_four_le hop _ _ _ _)
  refine ⟨_, _, congrArg Host.Outcome.next hlaunch, statusWord_latch_clearReport op s,
    congrArg Host.Outcome.next (hrun.trans hdone), statusWord_of_done rfl rfl, rfl, ?_⟩
  rw [raiseError, finish, ← hidle]
  rfl

/-- Settles O7: a running command word is neither `NOP` nor `CLEAR`, so its row completes it. -/
theorem completionStepRunsTheLatchedRow : Obligations.CompletionStepRunsTheLatchedRow := by
  unfold Obligations.CompletionStepRunsTheLatchedRow
  intro s i hinv hdue hdecode
  have hb := phase_busy_of_completionDue hdue
  obtain ⟨-, -, h0, h3⟩ := hinv.busyClean hb
  obtain rfl : decodeCmd s.curOp = i := Except.ok.inj (decodeWord_of_decode_leBytes (by decide) hdecode)
  rw [step_of_due hinv.params hdue, exec_decodeCmd s h0 h3, runCommand_of_busy hb rfl]

/-- Settles O8: offset 0 is `CMD`, whose write is the launch. -/
theorem cmdWriteLaunches : Obligations.CmdWriteLaunches := by
  unfold Obligations.CmdWriteLaunches
  intro s w
  refine ⟨launch w s, rfl, launch_of_busy w, fun _ hw => hw ▸ launch_zero s, fun hidle hw => hw ▸ launch_clear_of_idle hidle,
    fun hidle h0 h3 => ?_⟩
  rw [launch_of_idle hidle h0 h3]
  exact ⟨statusWord_latch_clearReport w s, rfl, rfl⟩

/-- Settles O9: `NOP` is the launch of the word 0. -/
theorem nopChangesNothing : Obligations.NopChangesNothing := by
  unfold Obligations.NopChangesNothing
  exact fun s => congrArg Host.Outcome.next (launch_zero s)

/-- Settles O10: `CLEAR` is the launch of the word 3. -/
theorem clearClearsTheReport : Obligations.ClearClearsTheReport := by
  unfold Obligations.ClearClearsTheReport
  exact fun s => ⟨fun hidle => congrArg Host.Outcome.next (launch_clear_of_idle hidle),
    fun hb => congrArg Host.Outcome.next (launch_of_busy 3 hb)⟩

end Sys2Proof.Machine

namespace Sys2Proof.Machine

/-! ### Which steps change the phase and the rest of the `BUSY` window (44_commands.md R141, R150) -/

/-- Both states are at the same point of the same `BUSY` window, or both idle. -/
def SameWindow (s t : State) : Prop := t.phase = s.phase ∧ t.window = s.window

/-- The event is a launch met by an idle block: a write to `CMD` of a word other than 0 and 3 (R140). -/
def Launches (s : State) (e : Event) : Prop := s.phase = .idle ∧ ∃ v, v ≠ 0 ∧ v ≠ 3 ∧ e = lineWr .cmd v

theorem launch_sameWindow_or_launches (v : Word) (s : State) : SameWindow s (launch v s) ∨ Launches s (lineWr .cmd v) := by
  rcases launch_cases v s with ⟨-, e⟩ | ⟨-, -, e⟩ | ⟨-, -, e⟩ | ⟨hidle, h0, h3, -⟩
  case inr.inr.inr => exact .inr ⟨hidle, v, h0, h3, rfl⟩
  all_goals rw [e]; exact .inl ⟨rfl, rfl⟩

theorem writeReg_sameWindow {r : Reg} (v : Word) (s : State) (hr : r ≠ .cmd) : SameWindow s (writeReg r v s) := by
  rcases writeReg_cases r v s with ⟨rfl, -⟩ | e | ⟨-, ⟨-, e⟩ | ⟨-, e⟩ | ⟨-, e⟩ | ⟨-, e⟩⟩
  · exact absurd rfl hr
  all_goals rw [e]; exact ⟨rfl, rfl⟩

theorem readAt_sameWindow (w : Width) (off : Nat) (s : State) : SameWindow s (readAt w off s) := by
  unfold readAt
  split
  · exact ⟨rfl, rfl⟩
  · exact ⟨rfl, rfl⟩
  · split <;> exact ⟨rfl, rfl⟩
  · split <;> exact ⟨rfl, rfl⟩

theorem dumpByte_sameWindow {k : Nat} {s t : State} (h : dumpByte k s = .next t) : SameWindow s t := by
  unfold dumpByte at h
  split_ifs at h
  cases h
  exact readAt_sameWindow .byte (obufBase + k) s

/-- A row that is no command word leaves the phase and the window alone. -/
theorem exec_sameWindow {i : Instr} {s t : State} (hi : i.place ≠ .cmd) (h : exec i s = .next t) : SameWindow s t := by
  cases i with
  | nop | rle | dctq | clear | reservedCmd => exact absurd rfl hi
  | xformNone | xformRevbits | xformRevnib | xformRevend | xformReserved | bpp1 | bpp4 | bpp8 =>
    cases h
    exact writeReg_sameWindow _ s (by decide)
  | _ =>
    cases h
    exact ⟨rfl, rfl⟩

/-- A register's word index is its offset divided by 4 (10_state.md R11). -/
theorem regAtIndex_eq_reg {k : Nat} {r : Reg} (h : regAtIndex k = .reg r) : (regOffset r).toNat = 4 * k := by
  unfold regAtIndex at h
  split at h
  case h_9 =>
    split at h <;> cases h
    simp only [regOffset, BitVec.toNat_ofNat]
    omega
  all_goals cases h; rfl

/-- An admitted access to a register is 32 bits wide, at the register's own offset (20_memory.md R43). -/
theorem access_of_regionAt_reg {p : Params} {w : Width} {off : BitVec 18} {r : Reg} (hadm : admitted w off.toNat = true)
    (h : regionAt p off.toNat = .reg r) : w = .word ∧ off = regOffset r := by
  unfold regionAt at h
  split_ifs at h with hlow
  have hoff := regAtIndex_eq_reg h
  cases w with
  | byte =>
    simp only [admitted_byte, ibufBase] at hadm
    omega
  | half => simp at hadm
  | word =>
    rw [admitted_word] at hadm
    exact ⟨rfl, BitVec.eq_of_toNat_eq (by omega)⟩

theorem access_sameWindow_or_launches {a : Access} {s t : State} (h : access a s = .next t) :
    SameWindow s t ∨ Launches s (.access a) := by
  rcases access_cases a s with ⟨w, off, -, -, e⟩ | ⟨w, off, v, rfl, hadm, e⟩ | e <;> rw [e] at h <;> cases h
  · exact .inl (readAt_sameWindow w off.toNat s)
  · rcases writeAt_cases w off.toNat v s with e | ⟨r, hreg, e⟩ | ⟨_, _, -, -, -, e⟩ <;> rw [e]
    · exact .inl ⟨rfl, rfl⟩
    · by_cases hr : r = .cmd
      · subst hr
        obtain ⟨rfl, rfl⟩ := access_of_regionAt_reg hadm hreg
        exact launch_sameWindow_or_launches v s
      · exact .inl (writeReg_sameWindow v s hr)
    · exact .inl ⟨rfl, rfl⟩

/-- The only access that carries a command row is a write to `CMD`. -/
theorem accessInstr_command {a : Access} {s : State} {i : Instr} (h : accessInstr a s = some i) (hp : i.place = .cmd) :
    ∃ v, a = .write .word (regOffset .cmd) v ∧ i = decodeCmd v := by
  unfold accessInstr at h
  split at h
  · split_ifs at h with hoff
    · cases h
      exact ⟨_, hoff ▸ rfl, rfl⟩
    · cases h
      simp [decodeXform_place] at hp
    · simp [decodeBpp_place h] at hp
  · split_ifs at h
    · simp [decodeStatus_place h] at hp
    · simp [decodeErrcode_place h] at hp
  all_goals cases h

/-- The action of an access of `s`, carried out once its event is taken off. -/
theorem perform_accessAction {a : Access} {s u t : State} (h : perform (accessAction a s) u = .next t)
    (hphase : u.phase = s.phase) : SameWindow u t ∨ Launches u (.access a) := by
  unfold accessAction at h
  split at h
  · next i hrow =>
    by_cases hp : i.place = .cmd
    · have hidle := hphase.trans (accessInstr_command_idle hrow hp)
      obtain ⟨v, rfl, rfl⟩ := accessInstr_command hrow hp
      rw [perform, exec_decodeCmd_of_idle v hidle] at h
      cases h
      exact launch_sameWindow_or_launches v u
    · exact .inl (exec_sameWindow hp h)
  · exact access_sameWindow_or_launches h

theorem perform_recordAction {c : Consumer} {s t : State} (h : perform (recordAction c) s = .next t) : SameWindow s t := by
  unfold recordAction at h
  split_ifs at h
  · cases h; exact ⟨rfl, rfl⟩
  · cases h; exact ⟨rfl, rfl⟩
  · split at h
    · next hrow => exact exec_sameWindow (by simp [decodeHdr_place hrow]) h
    · cases h; exact ⟨rfl, rfl⟩

/-- A step other than the completion step and the reset counts the window down with the event it takes, or it is a launch. -/
theorem step_sameWindow_or_launches {s t : State} (h : step s = .next t) (hdue : completionDue s = false)
    (hrst : s.program.head? ≠ some .rst) :
    SameWindow (fetch s).2 t ∨ ∃ e, s.program.head? = some e ∧ Launches s e := by
  rw [step_eq_perform s (step_cases h).1] at h
  unfold fetch at h ⊢
  rw [if_neg (by simp [hdue])] at h ⊢
  cases hprog : s.program with
  | nil =>
    simp only [hprog] at h
    cases h
    exact .inl ⟨rfl, rfl⟩
  | cons e rest =>
    rw [hprog] at h
    cases e with
    | access a => exact (perform_accessAction (u := popTo rest s) h rfl).imp_right fun hl => ⟨_, rfl, hl⟩
    | rst => simp [hprog] at hrst
    | poll =>
      have hread : perform (accessAction readStatus s) (popTo _ s) = .next t := h
      rcases perform_accessAction hread rfl with hsame | ⟨-, _, -, -, hwrite⟩
      · exact .inl hsame
      · cases hwrite
    | dump k n =>
      left
      dsimp only at h ⊢
      by_cases hk : k < n
      · rw [if_pos hk] at h ⊢
        exact dumpByte_sameWindow h
      · rw [if_neg hk] at h ⊢
        cases h
        exact ⟨rfl, rfl⟩
    | record => exact .inl (perform_recordAction h)
    | row y => exact .inl (exec_sameWindow (i := decodeQword _) (by simp [decodeQword, Instr.place]) h)

theorem step_of_rst {s : State} {rest : List Event} (hcfg : Config.wellFormed s.cfg = true) (hdue : completionDue s = false)
    (hprog : s.program = .rst :: rest) : step s = .next (applyReset (popTo rest s)) := by
  have hfetch : fetch s = (.reset, popTo rest s) := by simp [fetch, hdue, hprog]
  rw [step_eq_perform s hcfg, hfetch]
  rfl

/-- Settles O36: a step that is neither the completion step nor a reset keeps the phase, or it is a launch. -/
theorem phaseChangesOnlyByLaunchCompletionOrReset : Obligations.PhaseChangesOnlyByLaunchCompletionOrReset := by
  unfold Obligations.PhaseChangesOnlyByLaunchCompletionOrReset
  intro s t h
  cases hdue : completionDue s with
  | true => exact ⟨fun hidle => by simp [phase_busy_of_completionDue hdue] at hidle, fun _ _ => .inl rfl⟩
  | false =>
    by_cases hrst : s.program.head? = some .rst
    · obtain ⟨rest, hprog⟩ := List.head?_eq_some_iff.1 hrst
      rw [step_of_rst (step_cases h).1 hdue hprog] at h
      cases h
      exact ⟨fun _ ht => (by cases ht), fun _ _ => .inr hrst⟩
    · have hfetch : (fetch s).2.phase = s.phase := phase_eq_of_blockPart_eq (fetch_blockPart s)
      rcases step_sameWindow_or_launches h hdue hrst with ⟨hsame, -⟩ | ⟨e, he, hidle, v, h0, h3, rfl⟩
      · rw [hfetch] at hsame
        exact ⟨fun hs ht => by simp [hsame, hs] at ht, fun hs ht => by simp [hsame, hs] at ht⟩
      · exact ⟨fun _ _ => ⟨v, h0, h3, he⟩, fun hb => by simp [hidle] at hb⟩

/-! ### The `BUSY` window ends (44_commands.md R141) -/

theorem complete_phase (s : State) : (complete s).phase = .idle := by
  rcases complete_cases s with ⟨e, -, he⟩ | ⟨-, he⟩ <;> rw [he] <;> rfl

/-- Good parameters are the only thing a step asks for: no action ends in a fault. -/
theorem step_next_or_refused {s : State} (hcfg : Config.wellFormed s.cfg = true) :
    (∃ t, step s = .next t) ∨ ∃ r, step s = .refused r := by
  rw [step_eq_perform s hcfg]
  cases (fetch s).1 with
  | wait | complete | reset | cut => exact .inl ⟨_, rfl⟩
  | instr i =>
    obtain ⟨t, ht, -⟩ := exec_cases i (fetch s).2
    exact .inl ⟨t, ht⟩
  | access a =>
    rcases access_cases a (fetch s).2 with ⟨_, _, -, -, e⟩ | ⟨_, _, _, -, -, e⟩ | e
    · exact .inl ⟨_, e⟩
    · exact .inl ⟨_, e⟩
    · exact .inr ⟨_, e⟩
  | dumpByte k =>
    simp only [perform, dumpByte]
    split_ifs
    · exact .inl ⟨_, rfl⟩
    · exact .inr ⟨_, rfl⟩

/-- Taking an event off the program counts the window down. -/
theorem fetch_window {s : State} (hdue : completionDue s = false) (hprog : s.program ≠ []) :
    (fetch s).2.window = s.window - 1 := by
  unfold fetch
  rw [if_neg (by simp [hdue])]
  split
  · next hnil => exact absurd hnil hprog
  case h_5 => split_ifs <;> rfl
  all_goals rfl

/-- A busy block whose completion step is not due has an event before it, and room for it in the window. -/
theorem window_pos_of_not_due {s : State} (hb : s.phase = .busy) (hdue : completionDue s = false) :
    0 < s.window ∧ s.program ≠ [] := by
  simp only [completionDue, (isBusy_eq_true s).2 hb, Bool.true_and, Bool.or_eq_false_iff, beq_eq_false_iff_ne] at hdue
  exact ⟨Nat.pos_of_ne_zero hdue.1, by simpa using hdue.2⟩

/-- A step inside the `BUSY` window ends it by a reset, or counts it down. -/
theorem busy_step_window {s t : State} (h : step s = .next t) (hb : s.phase = .busy) (hdue : completionDue s = false) :
    t.phase = .idle ∨ (t.phase = .busy ∧ t.window = s.window - 1) := by
  by_cases hrst : s.program.head? = some .rst
  · obtain ⟨rest, hprog⟩ := List.head?_eq_some_iff.1 hrst
    rw [step_of_rst (step_cases h).1 hdue hprog] at h
    cases h
    exact .inl rfl
  · rcases step_sameWindow_or_launches h hdue hrst with ⟨hphase, hwindow⟩ | ⟨_, -, hidle, -⟩
    · rw [phase_eq_of_blockPart_eq (fetch_blockPart s)] at hphase
      rw [fetch_window hdue (window_pos_of_not_due hb hdue).2] at hwindow
      exact .inr ⟨hphase.trans hb, hwindow⟩
    · simp [hidle] at hb

/-- After `k` steps the block is idle, or a host access has been refused on the way. -/
def EndsAfter (k : Nat) (s : State) : Prop :=
  (∃ t, Sys2Proof.core.run k s = .next t ∧ t.phase = .idle) ∨ ∃ r, Sys2Proof.core.run k s = .refused r

theorem run_succ_of_next {s t : State} (k : Nat) (h : step s = .next t) :
    Sys2Proof.core.run (k + 1) s = Sys2Proof.core.run k t := by
  have hcore : Sys2Proof.core.step s = .next t := h
  simp only [Host.Core.run, hcore]

theorem run_succ_of_refused {s : State} {r : Refusal} (k : Nat) (h : step s = .refused r) :
    Sys2Proof.core.run (k + 1) s = .refused r := by
  have hcore : Sys2Proof.core.step s = .refused r := h
  simp only [Host.Core.run, hcore]

theorem endsAfter_one_of_idle {s t : State} (h : step s = .next t) (hidle : t.phase = .idle) : EndsAfter 1 s :=
  .inl ⟨t, run_succ_of_next 0 h, hidle⟩

theorem endsAfter_of_due {s : State} (hinv : s.Inv) (hdue : completionDue s = true) : EndsAfter 1 s :=
  endsAfter_one_of_idle (step_of_due hinv.params hdue) (complete_phase s)

/-- A busy block ends within its window and one step more; by induction on what is left of the window. -/
theorem busy_endsAfter (n : Nat) :
    ∀ s : State, s.Inv → s.phase = .busy → s.window ≤ n → ∃ k ≤ n + 1, EndsAfter k s := by
  induction n with
  | zero =>
    intro s hinv hb hn
    have hdue : completionDue s = true := by simp [completionDue, (isBusy_eq_true s).2 hb, Nat.le_zero.1 hn]
    exact ⟨1, le_rfl, endsAfter_of_due hinv hdue⟩
  | succ n ih =>
    intro s hinv hb hn
    have one_step (h : EndsAfter 1 s) : ∃ k ≤ n + 1 + 1, EndsAfter k s := ⟨1, by omega, h⟩
    cases hdue : completionDue s with
    | true => exact one_step (endsAfter_of_due hinv hdue)
    | false =>
      rcases step_next_or_refused hinv.params with ⟨t, ht⟩ | ⟨r, hr⟩
      · rcases busy_step_window ht hb hdue with hidle | ⟨htb, hwindow⟩
        · exact one_step (endsAfter_one_of_idle ht hidle)
        · obtain ⟨k, hk, hend⟩ := ih t (stepKeepsTheInvariant s t hinv ht) htb (by omega)
          refine ⟨k + 1, by omega, ?_⟩
          rwa [EndsAfter, run_succ_of_next k ht]
      · exact one_step (.inr ⟨r, run_succ_of_refused 0 hr⟩)

/-- Settles O18: the window counts down with every event, and at 0 the completion step is due. -/
theorem busyBlockCompletes : Obligations.BusyBlockCompletes := by
  unfold Obligations.BusyBlockCompletes
  exact fun s hinv hb => busy_endsAfter s.window s hinv hb le_rfl

end Sys2Proof.Machine

namespace Sys2Proof.Machine

/-! ### Register accesses (10_state.md R11, 44_commands.md R147, R148) -/

@[simp] theorem regOffset_qm_toNat (i : Fin 16) : (regOffset (.qm i)).toNat = 0x40 + 4 * i.val := by
  rw [regOffset, BitVec.toNat_ofNat, Nat.mod_eq_of_lt (by omega)]

theorem regionAt_regOffset (p : Params) (r : Reg) : regionAt p (regOffset r).toNat = .reg r := by
  cases r with
  | qm i =>
    rw [regOffset_qm_toNat]
    exact regionAt_qm p i
  | _ => rfl

theorem admitted_regOffset (r : Reg) : admitted .word (regOffset r).toNat = true := by
  cases r with
  | qm i =>
    rw [admitted_word, regOffset_qm_toNat]
    omega
  | _ => rfl

theorem access_read_reg (r : Reg) (s : State) : access (.read .word (regOffset r)) s = .next (readReg r s) := by
  rw [access_read_of_admitted s (admitted_regOffset r), readAt, regionAt_regOffset]

theorem access_write_reg (r : Reg) (v : Word) (s : State) :
    access (.write .word (regOffset r) v) s = .next (writeReg r v s) := by
  rw [access_write_of_admitted v s (admitted_regOffset r), writeAt, regionAt_regOffset]

theorem writeReg_of_busy (r : Reg) (v : Word) {s : State} (hb : s.phase = .busy) : writeReg r v s = s := by
  rcases writeReg_cases r v s with ⟨-, e⟩ | e | ⟨hidle, -⟩
  · rw [e, launch_of_busy v hb]
  · exact e
  · simp [hidle] at hb

/-- A write to a configuration register of an idle block stores the word (R148). -/
theorem writeReg_config_of_idle (v : Word) {s : State} (hidle : s.phase = .idle) :
    writeReg .bpp v s = setBpp v s ∧ writeReg .minseq v s = setMinseq v s ∧ writeReg .xform v s = setXform v s ∧
      writeReg .len v s = setLen v s := by
  simp [writeReg, (isBusy_eq_false s).2 hidle]

theorem regAtIndex_reserved {k : Nat} (hlo : 8 ≤ k) (hhi : k < 16) : regAtIndex k = .reserved := by
  unfold regAtIndex
  split
  case h_9 => exact dif_neg (by omega)
  all_goals omega

/-- The reserved offsets below the buffer windows (20_memory.md R41). -/
theorem regionAt_reservedLow {p : Params} {off : Nat} (h : 0x20 ≤ off ∧ off < 0x40 ∨ 0x80 ≤ off ∧ off < 0x10000) :
    regionAt p off = .reserved := by
  unfold regionAt
  rcases h with ⟨hlo, hhi⟩ | ⟨hlo, hhi⟩
  · rw [if_pos (by omega), regAtIndex_reserved (by omega) (by omega)]
  · rw [if_neg (by omega), if_pos (by unfold ibufBase; omega)]

/-- A tag row and a depth row are register writes (log entry 2). -/
theorem exec_xform_or_bpp {i : Instr} (hi : i.place = .xform ∨ i.place = .bpp) (s : State) :
    ∃ r v, exec i s = .next (writeReg r v s) := by
  cases i with
  | xformNone | xformRevbits | xformRevnib | xformRevend | xformReserved => exact ⟨.xform, _, rfl⟩
  | bpp1 | bpp4 | bpp8 => exact ⟨.bpp, _, rfl⟩
  | _ => simp [Instr.place] at hi

/-- Settles O20: each row is the register write of its word. -/
theorem tagsAndDepthsAreWritten : Obligations.TagsAndDepthsAreWritten := by
  unfold Obligations.TagsAndDepthsAreWritten
  refine fun s => ⟨fun hidle => ?_, fun hb i hi => ?_⟩
  · have hwrite (v : Word) : writeXform v s = .next (setXform v s) ∧ writeBpp v s = .next (setBpp v s) := by
      obtain ⟨hbpp, -, hxform, -⟩ := writeReg_config_of_idle v hidle
      exact ⟨congrArg Host.Outcome.next hxform, congrArg Host.Outcome.next hbpp⟩
    have hxform (v : Word) := (hwrite v).1
    have hbpp (v : Word) := (hwrite v).2
    exact ⟨hxform 0, hxform 1, hxform 2, hxform 3, hxform, hbpp 1, hbpp 4, hbpp 8⟩
  · obtain ⟨r, v, e⟩ := exec_xform_or_bpp hi s
    rw [e, writeReg_of_busy r v hb]

/-- The read returns the register's value and tells whether it is `v`. -/
theorem readAndMatch_reads (r : Reg) (v : Word) (s : State) :
    ∃ t, readAndMatch r v s = .next t ∧ t.readData = regValue r s ∧ (t.readMatch = true ↔ t.readData = v) ∧
      blockPart t = blockPart s :=
  ⟨_, rfl, rfl, beq_iff_eq, readAndMatch_blockPart r v s⟩

@[simp] theorem errcodeWord_toNat (s : State) : (errcodeWord s).toNat = s.errcode.toNat :=
  BitVec.toNat_setWidth_of_le (by decide)

/-- Settles O21: a code is read from `ERRCODE`, a value from `STATUS`. -/
theorem codesAndStatusValuesAreRead : Obligations.CodesAndStatusValuesAreRead := by
  unfold Obligations.CodesAndStatusValuesAreRead
  constructor
  · intro s i code hi
    obtain ⟨hrow, hcode⟩ : exec i s = readAndMatch .errcode (BitVec.ofNat 32 code) s ∧ code < 2 ^ 32 := by
      rcases hi with ⟨rfl, rfl⟩ | ⟨rfl, rfl⟩ | ⟨rfl, rfl⟩ | ⟨rfl, rfl⟩ <;> exact ⟨rfl, by decide⟩
    obtain ⟨t, ht, hdata, hmatch, hblock⟩ := readAndMatch_reads .errcode (BitVec.ofNat 32 code) s
    have hnat : t.readData.toNat = s.errcode.toNat := hdata ▸ errcodeWord_toNat s
    refine ⟨t, hrow.trans ht, hnat, hmatch.trans ?_, hblock⟩
    rw [← BitVec.toNat_inj, hnat, BitVec.toNat_ofNat, Nat.mod_eq_of_lt hcode]
  · intro s i value hi
    have hrow : exec i s = readAndMatch .status value s := by
      rcases hi with ⟨rfl, rfl⟩ | ⟨rfl, rfl⟩ | ⟨rfl, rfl⟩ | ⟨rfl, rfl⟩ <;> rfl
    obtain ⟨t, ht, hdata, hmatch, hblock⟩ := readAndMatch_reads .status value s
    have hbit (j : Nat) : t.readData.getLsbD j = [s.isBusy, s.done, s.err].getD j false := hdata ▸ statusWord_getLsbD s j
    refine ⟨t, hrow.trans ht, ?_, hbit 1, hbit 2, fun j hj => ?_, hmatch, hblock⟩
    · rw [hbit 0]
      exact isBusy_eq_true s
    · rw [hbit j, List.getD_eq_default _ _ hj]

/-- Settles O22: a register's offset reads its value, a reserved offset 0. -/
theorem registerReadsReturn : Obligations.RegisterReadsReturn := by
  unfold Obligations.RegisterReadsReturn
  refine fun s => ⟨fun r => ⟨_, access_read_reg r s, rfl, ?_⟩, fun off halign hrange => ?_⟩
  · refine ⟨fun hr => ?_, fun hr => ?_, fun hr => ?_, fun hr => ?_, fun hr => ?_, fun hr => ?_, fun hr => ?_,
      fun hr hidle => ?_, fun i hr => ?_⟩ <;> subst hr
    case refine_8 => exact if_neg (by simp [(isBusy_eq_false s).2 hidle])
    all_goals rfl
  · rw [access_read_of_admitted s ((admitted_word _).2 halign), readAt_of_reserved (regionAt_reservedLow hrange)]
    rfl

/-- Settles O23: a register's offset is written as `writeReg` says, a reserved offset not at all. -/
theorem registerWritesStore : Obligations.RegisterWritesStore := by
  unfold Obligations.RegisterWritesStore
  intro s v
  have hwrite (r : Reg) : access (.write .word (regOffset r) v) s = .next (writeReg r v s) := access_write_reg r v s
  refine ⟨fun hidle => ?_, fun hb => ?_, hwrite .cmd, hwrite .status, hwrite .errcode, hwrite .outlen,
    fun off halign hrange => ?_⟩
  · obtain ⟨hbpp, hminseq, hxform, hlen⟩ := writeReg_config_of_idle v hidle
    exact ⟨(hwrite .bpp).trans (congrArg _ hbpp), (hwrite .minseq).trans (congrArg _ hminseq),
      (hwrite .xform).trans (congrArg _ hxform), (hwrite .len).trans (congrArg _ hlen)⟩
  · have hdrop (r : Reg) := (hwrite r).trans (congrArg Host.Outcome.next (writeReg_of_busy r v hb))
    exact ⟨hdrop .bpp, hdrop .minseq, hdrop .xform, hdrop .len⟩
  · rw [access_write_of_admitted v s ((admitted_word _).2 halign)]
    by_cases hqm : 0x40 ≤ off.toNat ∧ off.toNat < 0x80
    · have hreg := regionAt_qm s.cfg ⟨(off.toNat - 0x40) / 4, by omega⟩
      rw [show 0x40 + 4 * ((off.toNat - 0x40) / 4) = off.toNat by omega] at hreg
      rw [writeAt, hreg]
      rfl
    · rw [writeAt_of_reserved (regionAt_reservedLow (by omega))]

/-! ### Buffer accesses (20_memory.md R41, R42, 44_commands.md R149) -/

theorem regionAt_ibuf {p : Params} {off : Nat} (hlo : ibufBase ≤ off) (hhi : off < ibufBase + p.ibufSize) :
    regionAt p off = .ibuf (off - ibufBase) := by
  have hlow : ¬ off < 0x80 := by unfold ibufBase at hlo; omega
  rw [regionAt, if_neg hlow, if_neg (by omega), if_pos hhi]

/-- `IBUF` ends before `OBUF` begins, because `IBUF_SIZE` is at most 65536 (00_scope.md R5). -/
theorem regionAt_obuf {p : Params} {off : Nat} (hp : Config.wellFormed p = true) (hlo : obufBase ≤ off)
    (hhi : off < obufBase + obufSize p) : regionAt p off = .obuf (off - obufBase) := by
  obtain ⟨-, -, hsize⟩ := ibufSize_of_wellFormed hp
  have hibuf : ¬ off < ibufBase + p.ibufSize := by unfold ibufBase; unfold obufBase at hlo; omega
  have hlow : ¬ off < ibufBase := by omega
  rw [regionAt, if_neg (by unfold ibufBase at hlow; omega), if_neg hlow, if_neg hibuf, if_neg (by omega), if_pos hhi]

theorem readAt_of_buffer {w : Width} {off i : Nat} {s : State}
    (h : regionAt s.cfg off = .ibuf i ∨ regionAt s.cfg off = .obuf i) :
    readAt w off s = if w = .byte then readBufferByte off s else readBufferWord off s := by
  rcases h with h | h <;> rw [readAt, h]

theorem bufferByte_of_stored {s : State} {a : Nat} {b : Byte} (j : Nat) (hidle : s.phase = .idle)
    (h : s.mem.read a = some b) : bufferByte s a j = b := by
  rw [bufferByte, (isBusy_eq_false s).2 hidle, h]
  rfl

/-- A byte read of a stored byte (R149). -/
theorem readAt_byte_of_stored {s : State} {off i : Nat} {b : Byte}
    (hreg : regionAt s.cfg off = .ibuf i ∨ regionAt s.cfg off = .obuf i) (hidle : s.phase = .idle)
    (h : s.mem.read off = some b) : (readAt .byte off s).readData = b.setWidth 32 := by
  rw [readAt_of_buffer hreg, if_pos rfl]
  exact congrArg (BitVec.setWidth 32) (bufferByte_of_stored s.freeIdx hidle h)

/-- A word read of four stored bytes (20_memory.md R42). -/
theorem readAt_word_of_stored {s : State} {off i : Nat} {b0 b1 b2 b3 : Byte}
    (hreg : regionAt s.cfg off = .ibuf i ∨ regionAt s.cfg off = .obuf i) (hidle : s.phase = .idle)
    (h0 : s.mem.read off = some b0) (h1 : s.mem.read (off + 1) = some b1) (h2 : s.mem.read (off + 2) = some b2)
    (h3 : s.mem.read (off + 3) = some b3) : (readAt .word off s).readData = leWord b0 b1 b2 b3 := by
  rw [readAt_of_buffer hreg, if_neg (by decide)]
  change bufferWord s off = _
  rw [bufferWord, bufferByte_of_stored _ hidle h0, bufferByte_of_stored _ hidle h1, bufferByte_of_stored _ hidle h2,
    bufferByte_of_stored _ hidle h3]

theorem writeAt_of_busy (w : Width) (off : Nat) (v : Word) {s : State} (hb : s.phase = .busy) : writeAt w off v s = s := by
  rcases writeAt_cases w off v s with e | ⟨r, -, e⟩ | ⟨_, _, -, hidle, -, -⟩
  · exact e
  · rw [e, writeReg_of_busy r v hb]
  · simp [hidle] at hb

theorem writeInput_of_idle (a : Nat) (bs : List Byte) {s : State} (hidle : s.phase = .idle) :
    writeInput a bs s = setMem (s.mem.writeBytes a bs) s := by
  simp [writeInput, (isBusy_eq_false s).2 hidle]

theorem writeAt_byte_ibuf_of_idle {off i : Nat} (v : Word) {s : State} (hidle : s.phase = .idle)
    (hreg : regionAt s.cfg off = .ibuf i) : writeAt .byte off v s = setMem (s.mem.writeBytes off [laneByte v 0]) s := by
  rw [writeAt, hreg]
  exact writeInput_of_idle off _ hidle

theorem writeAt_word_ibuf_of_idle {off i : Nat} (v : Word) {s : State} (hidle : s.phase = .idle)
    (hreg : regionAt s.cfg off = .ibuf i) : writeAt .word off v s = setMem (s.mem.writeBytes off (leBytes v)) s := by
  rw [writeAt, hreg]
  exact writeInput_of_idle off _ hidle

theorem laneByte_zero (v : Word) : laneByte v 0 = v.setWidth 8 := BitVec.eq_of_toNat_eq (by simp [laneByte_toNat])

/-- The byte a byte write stores, read back in a word. -/
theorem laneByte_zero_setWidth (v : Word) : (laneByte v 0).setWidth 32 = v &&& 0xFF := by
  apply BitVec.eq_of_toNat_eq
  rw [BitVec.toNat_setWidth_of_le (by decide), laneByte_toNat, BitVec.toNat_and, pow_zero, Nat.div_one]
  exact (Nat.and_two_pow_sub_one_eq_mod v.toNat 8).symm

theorem leBytes_getElem? (v : Word) {k : Nat} (hk : k < 4) : (leBytes v)[k]? = some (v.extractLsb' (8 * k) 8) := by
  interval_cases k <;> rfl

/-- Byte `k` of a word has the weight `256 ^ k` (20_memory.md R42). -/
theorem leWord_toNat (b0 b1 b2 b3 : Byte) :
    (leWord b0 b1 b2 b3).toNat = b0.toNat + 256 * b1.toNat + 65536 * b2.toNat + 16777216 * b3.toNat := by
  have hbytes := leBytes_leWord b0 b1 b2 b3
  have hlt := (leWord b0 b1 b2 b3).isLt
  simp only [leBytes, List.cons.injEq, and_true, ← BitVec.toNat_inj, laneByte_toNat] at hbytes
  omega

/-- Settles O24: the bytes of the write's width are stored at its offset, and a read of that width answers them. -/
theorem inputBufferAccesses : Obligations.InputBufferAccesses := by
  unfold Obligations.InputBufferAccesses
  intro s off v hlo hhi hcfg
  have hreg := regionAt_ibuf hlo hhi
  have hbyte : admitted .byte off.toNat = true := (admitted_byte _).2 hlo
  have hword (halign : off.toNat % 4 = 0) : admitted .word off.toNat = true := (admitted_word _).2 halign
  refine ⟨fun hb => ⟨?_, fun halign => ?_⟩, fun hidle => ⟨?_, fun halign => ?_⟩⟩
  · rw [access_write_of_admitted v s hbyte, writeAt_of_busy _ _ v hb]
  · rw [access_write_of_admitted v s (hword halign), writeAt_of_busy _ _ v hb]
  · have hstored (k : Nat) := memory_read_writeBytes_inside [laneByte v 0] s.mem off.toNat k
    rw [access_write_of_admitted v s hbyte, writeAt_byte_ibuf_of_idle v hidle hreg]
    refine ⟨_, _, rfl, rfl, (hstored 0 (by simp)).trans (congrArg some (laneByte_zero v)), fun a ha => ?_,
      access_read_of_admitted _ hbyte, ?_, readAt_blockPart _ _ _⟩
    · exact memory_read_writeBytes_outside _ _ _ _ (by simp; omega)
    · exact Eq.trans (readAt_byte_of_stored (.inl hreg) hidle (hstored 0 (by simp))) (laneByte_zero_setWidth v)
  · have hstored (k : Nat) (hk : k < 4) := memory_read_writeBytes_inside (leBytes v) s.mem off.toNat k hk
    rw [access_write_of_admitted v s (hword halign), writeAt_word_ibuf_of_idle v hidle hreg]
    refine ⟨_, _, rfl, rfl, fun k hk => (hstored k hk).trans (leBytes_getElem? v hk), fun a ha => ?_,
      access_read_of_admitted _ (hword halign), ?_, readAt_blockPart _ _ _⟩
    · exact memory_read_writeBytes_outside _ _ _ _ (by simpa [leBytes] using ha)
    · exact Eq.trans (readAt_word_of_stored (.inl hreg) hidle (hstored 0 (by decide)) (hstored 1 (by decide))
        (hstored 2 (by decide)) (hstored 3 (by decide))) (leWord_laneBytes v)

/-- Settles O25: no region of `OBUF` takes a write, and a read answers the stored bytes. -/
theorem outputBufferAccesses : Obligations.OutputBufferAccesses := by
  unfold Obligations.OutputBufferAccesses
  intro s off v hlo hhi hcfg
  have hreg := regionAt_obuf hcfg hlo hhi
  have hbyte : admitted .byte off.toNat = true := (admitted_byte _).2 (le_trans (by decide) hlo)
  refine ⟨?_, fun halign => ?_, fun hidle b hb => ?_, fun hidle halign b0 b1 b2 b3 h0 h1 h2 h3 => ?_⟩
  · rw [access_write_of_admitted v s hbyte, writeAt, hreg]
  · rw [access_write_of_admitted v s ((admitted_word _).2 halign), writeAt, hreg]
  · refine ⟨_, access_read_of_admitted s hbyte, ?_, readAt_blockPart _ _ _⟩
    rw [readAt_byte_of_stored (.inr hreg) hidle hb]
    exact BitVec.toNat_setWidth_of_le (by decide)
  · refine ⟨_, access_read_of_admitted s ((admitted_word _).2 halign), ?_, readAt_blockPart _ _ _⟩
    rw [readAt_word_of_stored (.inr hreg) hidle h0 h1 h2 h3, leWord_toNat]

end Sys2Proof.Machine

namespace Sys2Proof.Machine

/-! ### Checks and error entry (60_exceptions.md R164, R165) -/

/-- The row of a running command word is its completion step. -/
theorem exec_decodeCmd_of_busy {s : State} (hb : s.phase = .busy) (h0 : s.curOp ≠ 0) (h3 : s.curOp ≠ 3) :
    exec (decodeCmd s.curOp) s = .next (complete s) := by
  rw [exec_decodeCmd s h0 h3, runCommand_of_busy hb rfl]

/-- The work of a command reports no error, and takes none back. -/
theorem commandWork_keeps_error (s : State) : (commandWork s).errcode = s.errcode ∧ (commandWork s).err = s.err := by
  rcases commandWork_cases s with hsame | ⟨out, hout, -⟩
  · exact ⟨congrArg State.errcode hsame, congrArg State.err hsame⟩
  · exact ⟨(congrArg State.errcode hout :), (congrArg State.err hout :)⟩

theorem complete_keeps_error_of_checks_none {s : State} (h : checks s.cfg s.curOp s.bpp s.xform s.len = none) :
    (complete s).errcode = s.errcode ∧ (complete s).err = s.err :=
  complete_of_checks_none h ▸ commandWork_keeps_error s

/-- Settles O15: each clause is the branch of the checks that it names, and a completion step without an error keeps the
clean report. -/
theorem checksAreMadeInOrder : Obligations.ChecksAreMadeInOrder := by
  unfold Obligations.ChecksAreMadeInOrder
  intro s hb h0 h3 herr hcode
  have code (e : ErrKind) (h : checks s.cfg s.curOp s.bpp s.xform s.len = some e) : (complete s).errcode = errCode e :=
    congrArg State.errcode (complete_of_checks_some h)
  have clean (h : checks s.cfg s.curOp s.bpp s.xform s.len = none) : (complete s).errcode = 0 ∧ (complete s).err = false := by
    rw [← hcode, ← herr]
    exact complete_keeps_error_of_checks_none h
  refine ⟨complete s, exec_decodeCmd_of_busy hb h0 h3, fun hop => code .unsupportedConfiguration (checks_of_four_le hop ..),
    fun hop h1 h4 => code .unsupportedConfiguration ?_, fun hop h8 => code .unsupportedConfiguration ?_,
    fun hop hbpp hxform => code .unsupportedConfiguration ?_, fun hop hbpp hxform hlen => code .outOfRange ?_,
    fun hop hbpp hxform hlen hfaults => code .emptyInput ?_, fun hop hlegal => clean ?_, fun hop h8 => clean ?_⟩ <;> rw [hop]
  · rw [checks_rle, if_pos (not_or.2 ⟨h1, h4⟩)]
  · rw [checks_dctq, if_pos h8]
  · rw [checks_rle, if_neg (not_not.2 hbpp), if_pos hxform]
  · rw [checks_rle, if_neg (not_not.2 hbpp), if_neg hxform.not_ge, if_pos hlen]
  · rw [checks_rle, if_neg (not_not.2 hbpp), if_neg hxform.not_ge, if_neg (by simp [hlen]), if_pos ⟨hlen, hfaults⟩]
  · exact checks_rle_of_legal hlegal
  · rw [checks_dctq, if_neg (not_not.2 h8)]

/-- Settles O16: the completion step is `raiseError`, and `OUTLEN` has been 0 since the launch. -/
theorem errorEntryChangesTheReportOnly : Obligations.ErrorEntryChangesTheReportOnly := by
  unfold Obligations.ErrorEntryChangesTheReportOnly
  intro s e hinv hb hchecks
  obtain ⟨-, hout, h0, h3⟩ := hinv.busyClean hb
  refine ⟨raiseError e s, ?_, statusWord_of_done rfl rfl, hout, ?_, ?_, ?_, rfl⟩
  · rw [exec_decodeCmd_of_busy hb h0 h3, complete_of_checks_some hchecks]
  all_goals rintro rfl; rfl

/-! ### What keeps the report (60_exceptions.md R166) -/

/-- What the host is told of the last command: `ERR`, `DONE`, `ERRCODE` and `OUTLEN` (10_state.md R13, R14, R19). -/
def reportOf (s : State) : Bool × Bool × BitVec 2 × Word := (s.err, s.done, s.errcode, s.outlen)

theorem reportOf_eq_of_blockPart_eq {s t : State} (e : blockPart t = blockPart s) : reportOf t = reportOf s :=
  (congrArg reportOf e :)

theorem writeReg_reportOf {r : Reg} (v : Word) (s : State) (hr : r ≠ .cmd) : reportOf (writeReg r v s) = reportOf s := by
  rcases writeReg_cases r v s with ⟨rfl, -⟩ | e | ⟨-, ⟨-, e⟩ | ⟨-, e⟩ | ⟨-, e⟩ | ⟨-, e⟩⟩
  · exact absurd rfl hr
  all_goals exact (congrArg reportOf e).trans rfl

/-- The only admitted write that can touch the report is one to `CMD` of a word other than 0. -/
theorem access_reportOf {a : Access} {s t : State} (ha : ∀ v, v ≠ 0 → a ≠ .write .word (regOffset .cmd) v)
    (h : access a s = .next t) : reportOf t = reportOf s := by
  rcases access_cases a s with ⟨w, off, -, -, e⟩ | ⟨w, off, v, rfl, hadm, e⟩ | e <;> rw [e] at h <;> cases h
  · exact reportOf_eq_of_blockPart_eq (readAt_blockPart w off.toNat s)
  · rcases writeAt_cases w off.toNat v s with e | ⟨r, hreg, e⟩ | ⟨_, _, -, -, -, e⟩ <;> rw [e]
    · by_cases hr : r = .cmd
      · subst hr
        obtain ⟨rfl, rfl⟩ := access_of_regionAt_reg hadm hreg
        obtain rfl : v = 0 := by_contra fun hv => ha v hv rfl
        rw [writeReg, launch_zero]
      · exact writeReg_reportOf v s hr
    · rfl

theorem exec_reportOf {i : Instr} {s t : State} (hi : i.place ≠ .cmd) (h : exec i s = .next t) : reportOf t = reportOf s := by
  cases i with
  | nop | rle | dctq | clear | reservedCmd => exact absurd rfl hi
  | xformNone | xformRevbits | xformRevnib | xformRevend | xformReserved | bpp1 | bpp4 | bpp8 =>
    cases h
    exact writeReg_reportOf _ s (by decide)
  | _ =>
    cases h
    rfl

/-- The actions that are no completion step and no reset and carry no command but `NOP`. -/
def CommandFree : Action → Prop
  | .instr i => i.place = .cmd → i = .nop
  | .access a => ∀ v, v ≠ 0 → a ≠ .write .word (regOffset .cmd) v
  | .complete | .reset => False
  | .wait | .dumpByte _ | .cut => True

theorem perform_reportOf {a : Action} {s t : State} (ha : CommandFree a) (h : perform a s = .next t) :
    reportOf t = reportOf s := by
  cases a with
  | instr i =>
    by_cases hp : i.place = .cmd
    · obtain rfl := ha hp
      cases h
      rw [launch_zero]
    · exact exec_reportOf hp h
  | access a => exact access_reportOf ha h
  | dumpByte k => exact reportOf_eq_of_blockPart_eq (dumpByte_blockPart h)
  | wait | cut => cases h; rfl
  | complete | reset => exact ha.elim

theorem accessAction_commandFree {a : Access} (s : State) (ha : ∀ v, v ≠ 0 → a ≠ .write .word (regOffset .cmd) v) :
    CommandFree (accessAction a s) := by
  unfold accessAction
  split
  · next i hrow =>
    intro hp
    obtain ⟨v, rfl, rfl⟩ := accessInstr_command hrow hp
    obtain rfl : v = 0 := by_contra fun hv => ha v hv rfl
    rfl
  · exact ha

theorem recordAction_commandFree (c : Consumer) : CommandFree (recordAction c) := by
  unfold recordAction
  split_ifs
  · trivial
  · trivial
  · split
    · next hrow => exact fun hp => by simp [decodeHdr_place hrow] at hp
    · trivial

theorem fetch_commandFree {s : State} (hdue : completionDue s = false) (hrst : s.program.head? ≠ some .rst)
    (hcmd : ∀ v, v ≠ 0 → s.program.head? ≠ some (lineWr .cmd v)) : CommandFree (fetch s).1 := by
  unfold fetch
  rw [if_neg (by simp [hdue])]
  cases hprog : s.program with
  | nil => trivial
  | cons e rest =>
    simp only [hprog, List.head?_cons, ne_eq, Option.some.injEq] at hrst hcmd
    cases e with
    | access a => exact accessAction_commandFree s fun v hv ha => hcmd v hv (congrArg Event.access ha)
    | rst => exact absurd rfl hrst
    | poll => exact accessAction_commandFree s nofun
    | dump k n => dsimp only; split_ifs <;> trivial
    | record => exact recordAction_commandFree s.consumer
    | row y => exact nofun

/-- Settles O17: with `ERR` set the block is idle, so no completion step is due, and the step's action carries no command. -/
theorem errorReportStaysUntilCleared : Obligations.ErrorReportStaysUntilCleared := by
  unfold Obligations.ErrorReportStaysUntilCleared
  intro s t hinv herr h hrst hcmd
  have hdue : completionDue s = false := by
    by_contra hdue
    have hclean := err_eq_false_of_busy hinv (phase_busy_of_completionDue (by simpa using hdue))
    simp [herr] at hclean
  rw [step_eq_perform s hinv.params] at h
  have hreport : reportOf t = reportOf s :=
    (perform_reportOf (fetch_commandFree hdue hrst hcmd) h).trans (reportOf_eq_of_blockPart_eq (fetch_blockPart s))
  simp only [reportOf, Prod.mk.injEq] at hreport
  obtain ⟨hterr, htdone, htcode, htout⟩ := hreport
  exact ⟨hterr.trans herr, htdone.trans (hinv.errDone herr), htcode, htout.trans (hinv.noOutput (.inl herr))⟩

end Sys2Proof.Machine

namespace Sys2Proof.Machine

/-! ### Unwritten input (70_reset_and_hazards.md R185) -/

/-- The input of a command is missing as soon as one of its bytes is unwritten. -/
theorem inputBytes_eq_none {n : Nat} {s : State} (h : ∃ k, k < n ∧ s.mem.read (ibufBase + k) = none) : inputBytes n s = none := by
  obtain ⟨k, hk, hnone⟩ := h
  refine Option.eq_none_iff_forall_ne_some.2 fun bytes hsome => ?_
  obtain ⟨hlen, hstored⟩ := (memory_readBytes_eq_some _ _ _ _).1 hsome
  have hlast : bytes[k]? = none := (hstored k hk).symm.trans hnone
  exact absurd (List.getElem?_eq_none_iff.1 hlast) (by omega)

theorem commandWork_rle_unwritten {s : State} (hop : s.curOp = 1) (hin : rleInput s = none) :
    ∃ n, n ≤ 2 * s.len.toNat ∧ commandWork s = writeFreeOutput n (advance 1 s) := by
  rw [commandWork, if_pos hop]
  rcases rleWork_cases s with ⟨bytes, hsome, -⟩ | ⟨-, hfree⟩
  · simp [hin] at hsome
  · exact hfree

theorem commandWork_dctq_unwritten {s : State} (hop : s.curOp = 2) (hin : dctqInput s = none) :
    commandWork s = writeFreeOutput 16 s := by
  rw [commandWork, if_neg (by rw [hop]; decide), if_pos hop]
  rcases dctqWork_cases s with ⟨bytes, hsome, -⟩ | ⟨-, hfree⟩
  · simp [hin] at hsome
  · exact hfree

/-- A completion step whose work is one output, up to the model's own fields, leaves the block as that output does. -/
theorem complete_blockPart_commandResult {op : Word} {out : List Byte} {s : State}
    (hchecks : checks s.cfg op s.bpp s.xform s.len = none)
    (hwork : blockPart (commandWork (latch op (clearReport s))) = blockPart (writeOutput out (latch op (clearReport s)))) :
    blockPart (complete (latch op (clearReport s))) = blockPart (commandResult op out s) := by
  rw [complete_of_checks_none hchecks, commandResult, blockPart_finish, hwork, blockPart_finish]

/-- What the host sees of a result: `STATUS` 2, and nothing stored outside the output. -/
theorem status_outlen_mem_of_blockPart_commandResult {op : Word} {out : List Byte} {s u : State}
    (h : blockPart u = blockPart (commandResult op out s)) :
    statusWord u = 2 ∧ u.outlen = BitVec.ofNat 32 out.length ∧
      ∀ a, ¬ inOutput out.length a → u.mem.read a = s.mem.read a := by
  have hstatus : statusWord u = statusWord (commandResult op out s) := (congrArg statusWord h :)
  have hmem := mem_eq_of_blockPart_eq h
  exact ⟨hstatus.trans (statusWord_commandResult op out s), (congrArg State.outlen h :),
    fun a ha => hmem ▸ commandResult_read_outside op out s a ha⟩

/-- An `RLE` output within its bound has a length that `OUTLEN` can hold (41_rle.md R103). -/
theorem toNat_ofNat_of_le_two_mul_len {s : State} {n : Nat} (hinv : s.Inv) (hlegal : rleLegal s) (hn : n ≤ 2 * s.len.toNat) :
    (BitVec.ofNat 32 n).toNat = n := by
  obtain ⟨-, -, hlen, -⟩ := hlegal
  obtain ⟨-, -, hsize⟩ := ibufSize_of_wellFormed hinv.params
  exact Nat.mod_eq_of_lt (by omega)

/-- Settles O13: the work of a command on unwritten input is an output of free bytes, within the bound of the command. -/
theorem unwrittenInputLeavesOutputOpen : Obligations.UnwrittenInputLeavesOutputOpen := by
  unfold Obligations.UnwrittenInputLeavesOutputOpen
  constructor
  · intro s hinv hidle hlegal hunwritten
    obtain ⟨hlaunch, hrun⟩ := runCommand_launch_complete hidle (show (1 : Word) ≠ 0 by decide) (by decide)
    obtain ⟨n, hn, hwork⟩ := commandWork_rle_unwritten (s := latch 1 (clearReport s)) rfl (inputBytes_eq_none hunwritten)
    obtain ⟨hstatus, hout, hmem⟩ := status_outlen_mem_of_blockPart_commandResult (complete_blockPart_commandResult
      (checks_rle_of_legal hlegal) ((congrArg blockPart hwork).trans (blockPart_writeFreeOutput n _)))
    rw [freeBytes_length] at hout hmem
    have hlen := (congrArg BitVec.toNat hout).trans (toNat_ofNat_of_le_two_mul_len hinv hlegal hn)
    exact ⟨_, _, congrArg Host.Outcome.next hlaunch, congrArg Host.Outcome.next hrun, hstatus, hlen.trans_le hn, hlen.symm ▸ hmem⟩
  · intro s _ hidle hbpp hunwritten
    obtain ⟨hlaunch, hrun⟩ := runCommand_launch_complete hidle (show (2 : Word) ≠ 0 by decide) (by decide)
    have hwork := commandWork_dctq_unwritten (s := latch 2 (clearReport s)) rfl (inputBytes_eq_none hunwritten)
    have hchecks : checks s.cfg 2 s.bpp s.xform s.len = none := by
      rw [checks_dctq, if_neg (not_not.2 hbpp)]
    obtain ⟨hstatus, hout, hmem⟩ := status_outlen_mem_of_blockPart_commandResult (complete_blockPart_commandResult
      hchecks ((congrArg blockPart hwork).trans (blockPart_writeFreeOutput 16 _)))
    rw [freeBytes_length] at hout hmem
    exact ⟨_, _, congrArg Host.Outcome.next hlaunch, congrArg Host.Outcome.next hrun, hstatus, hout, hmem⟩

/-! ### The `BUSY` window (70_reset_and_hazards.md R183) -/

/-- Without `ERR` the error code is 0 (10_state.md R13). -/
theorem errcodeWord_of_no_error {s : State} (hinv : s.Inv) (herr : s.err = false) : errcodeWord s = 0 := by
  have hcode : s.errcode = 0 := by_contra fun hne => by simp [hinv.errCode.2 hne] at herr
  rw [errcodeWord, hcode]
  rfl

/-- Settles O29: no write of a busy block does anything, and a running command has reported nothing. -/
theorem busyWindowDropsEveryWrite : Obligations.BusyWindowDropsEveryWrite := by
  unfold Obligations.BusyWindowDropsEveryWrite
  intro s w off v hinv hb
  have herr := err_eq_false_of_busy hinv hb
  refine ⟨fun hadm => ?_, statusWord_of_busy hb (hinv.busyClean hb).1 herr, errcodeWord_of_no_error hinv herr⟩
  rw [access_write_of_admitted v s hadm, writeAt_of_busy w off.toNat v hb]

/-! ### Reset (70_reset_and_hazards.md R180) -/

/-- An idle block does nothing on its own (60_exceptions.md R170). -/
theorem step_of_idle_of_no_event {s : State} (hcfg : Config.wellFormed s.cfg = true) (hidle : s.phase = .idle)
    (hprog : s.program = []) : step s = .next s := by
  have hfetch : fetch s = (.wait, s) := by simp [fetch, completionDue, (isBusy_eq_false s).2 hidle, hprog]
  rw [step_eq_perform s hcfg, hfetch]
  rfl

/-- `STATUS` reads 0 after a reset under any parameters (10_state.md R27). -/
theorem statusWord_applyReset (s : State) : statusWord (applyReset s) = 0 := by
  have hreset : statusWord (applyReset s) = statusWord State.reset := rfl
  obtain ⟨-, hstatus, -⟩ := resetStateHasTheInvariant
  exact hreset.trans hstatus

/-- Settles O30: the step is `applyReset`, which leaves the block idle. -/
theorem resetInputRestoresResetValues : Obligations.ResetInputRestoresResetValues := by
  unfold Obligations.ResetInputRestoresResetValues
  intro s rest hcfg hdue hprog
  exact ⟨applyReset (popTo rest s), step_of_rst hcfg hdue hprog, statusWord_applyReset _, rfl, rfl, rfl, rfl, rfl, rfl, rfl,
    fun _ => rfl, rfl, rfl, fun hrest => step_of_idle_of_no_event hcfg rfl hrest⟩

end Sys2Proof.Machine
